-- ==== Sys2Proof/Config.lean ====
section
/-! DEFINITION. Config: the parameters the spec leaves open (00_scope.md R6, 92_eei_decisions.md section 2) and the
two structural constants other types are built on. The remaining constants of 00_scope.md R5 stand in
Machine/Operands.lean. -/

namespace Sys2Proof

/-- What a cycle does with a short or failed read (92_eei_decisions.md D10). -/
inductive PartialPolicy where
  /-- decode the buffer, stale tail included -/
  | decodeStaleTail
  /-- send no sink event in that cycle -/
  | dropSample
deriving DecidableEq, Repr

/-- The parameters a model takes as arguments of its step function (92_eei_decisions.md section 2): `CW`,
`PARTIAL_POLICY`, `TERR_FATAL`. `F_CLK` is an argument of the clocked rendering only: see `ClockFreq`. -/
structure Config where
  /-- `CW`, the width of CYCLE_COUNTER; the spec asks `CW >= 4` (`Config.wellFormed`) -/
  cw : Nat
  /-- `PARTIAL_POLICY` -/
  partialPolicy : PartialPolicy
  /-- `TERR_FATAL` -/
  terrFatal : Bool
deriving DecidableEq, Repr

/-- The defaults of 00_scope.md R6. -/
def Config.default : Config :=
  { cw := 32, partialPolicy := .decodeStaleTail, terrFatal := false }

/-- `F_CLK` in hertz, as the positive fraction `num / den`; the spec asks `F_CLK >= 1000` and gives no default
(00_scope.md R6). DESIGN CHOICE (log 6): a fraction stands for the spec's real number. -/
structure ClockFreq where
  num : Nat
  den : Nat
deriving DecidableEq, Repr

/-- `FRAME_LEN` of 00_scope.md R5: bytes in a raw frame and in one bus read. -/
abbrev frameLen : Nat := 6

/-- `BUS_ADDR` of 00_scope.md R5, an opaque identifier of the one peripheral (20_memory.md R36). -/
abbrev busAddr : Nat := 0x52

end Sys2Proof
end

