-- ==== Sys2Proof/Word.lean ====
section
/-! DEFINITION. Word: the byte, the six-byte frame and the decoded Sample. Types only; what is computed on
them stands in Decode.lean (packing) and in Machine/Operands.lean (the decoder's fields). -/

namespace Sys2Proof

/-- One byte of the bus or of the frame buffer, bit 0 the bit of weight 1 (00_scope.md R7, 20_memory.md R31). -/
abbrev Byte := BitVec 8

/-- Six bytes in the order they were received: `b0` is the byte received first (10_state.md R10, 20_memory.md R30).
The RawFrame of the spec. -/
structure Frame where
  b0 : Byte
  b1 : Byte
  b2 : Byte
  b3 : Byte
  b4 : Byte
  b5 : Byte
deriving DecidableEq, Repr

/-- A frame every byte of which has gone through the de-obfuscation: the spec's `D[0..5]` (30_encoding.md R52).
The same six bytes as a `Frame`; the name says which of the two a function takes. -/
abbrev DFrame := Frame

/-- The decoded reading, with the widths of 40_frame_decoder.md R79. The buttons are raw bits, not inverted. -/
structure Sample where
  stickX  : BitVec 8
  stickY  : BitVec 8
  accelX  : BitVec 10
  accelY  : BitVec 10
  accelZ  : BitVec 10
  buttonC : BitVec 1
  buttonZ : BitVec 1
deriving DecidableEq, Repr

end Sys2Proof
end

