-- ==== Sys2Proof/Syntax.lean ====
section
/-! DEFINITION. Syntax: the 22 operations of spec/opcode_table.json, the codes of the step register, the operation
words, the conditions, the events of the trace and the items of a scenario script. -/

namespace Sys2Proof

/-- The step register PHASE as the enumeration of ten values the spec asks a model for (10_state.md R12,
30_encoding.md R60): the reserved codes 10 to 15 cannot be written down. -/
inductive Phase where
  | idle | hs | inc | dlyCmd | poll | dlyData | rd6 | decrpt | dlyRest | chk
deriving DecidableEq, Repr

/-- The 22 hardwired operations (30_encoding.md R50, R62). The first ten are phase operations of the sequencer, the
next two the host's commands, the last ten functions of the Frame Decoder with the operand each reads. -/
inductive Instr where
  /-- R100 -/
  | idle
  /-- R91 -/
  | hs
  /-- R92 -/
  | inc
  /-- R93 -/
  | dlyCmd
  /-- R94 -/
  | poll
  /-- R95 -/
  | dlyData
  /-- R96 -/
  | rd6
  /-- R97 -/
  | decrpt
  /-- R98 -/
  | dlyRest
  /-- R99 -/
  | chk
  /-- R121 -/
  | start
  /-- R122 -/
  | stop
  /-- R70: one raw byte -/
  | deobf (b : Byte)
  /-- R71: six raw bytes -/
  | deobf6 (f : Frame)
  /-- R72: a de-obfuscated frame -/
  | stickX (d : DFrame)
  /-- R73: a de-obfuscated frame -/
  | stickY (d : DFrame)
  /-- R74: a de-obfuscated frame -/
  | accelX (d : DFrame)
  /-- R75: a de-obfuscated frame -/
  | accelY (d : DFrame)
  /-- R76: a de-obfuscated frame -/
  | accelZ (d : DFrame)
  /-- R77: a de-obfuscated frame -/
  | buttonC (d : DFrame)
  /-- R78: a de-obfuscated frame -/
  | buttonZ (d : DFrame)
  /-- R79: six raw bytes -/
  | decode (f : Frame)
deriving DecidableEq, Repr

/-- The nine decoder functions whose operand is a whole 48-bit frame. No bit of the operand selects among them
(30_encoding.md R50: "selected by nothing"), so the choice stands beside the word, not in it. -/
inductive FrameFn where
  | deobf6 | stickX | stickY | accelX | accelY | accelZ | buttonC | buttonZ | decode
deriving DecidableEq, Repr

/-- An operation word: one of the three formats of 30_encoding.md R50 with its bits. -/
inductive OpWord where
  /-- format PH, R51: the 4-bit code of PHASE -/
  | ph (code : BitVec 4)
  /-- format CMD, R55: `cmd_stop ++ cmd_start` -/
  | cmd (word : BitVec 2)
  /-- format FR48 on one byte, R70: eight operand bits -/
  | byte (b : BitVec 8)
  /-- format FR48 on a frame, R52: 48 operand bits, byte `k` at bits `8k+7 : 8k` -/
  | fr48 (fn : FrameFn) (w : BitVec 48)
deriving DecidableEq, Repr

/-- The six conditions of 60_exceptions.md R130. -/
inductive Condition where
  | transportError | handshakeIncomplete | pollRequestFailed | frameIncomplete | workerSpawnFailed | invalidBusAddress
deriving DecidableEq, Repr

/-- The kind of an Event Sink call (20_memory.md R42). -/
inductive SinkKind where
  | axis | button | sync
deriving DecidableEq, Repr

/-- The three named delays of 00_scope.md R5. -/
inductive DelayName where
  | settleCmd | settleData | rest
deriving DecidableEq, Repr

/-- The Transport's answer to a write of `n` bytes (20_memory.md R33): a count in `0 .. n`, or an error. A count above
the request cannot be written down (93_implementation_defined.md U20). -/
inductive WriteAnswer (n : Nat) where
  | count (k : Fin (n + 1))
  | err
deriving DecidableEq, Repr

/-- The bytes one read can deliver: none to six, first received first (20_memory.md R34). -/
abbrev RxBytes := { bs : List Byte // bs.length ≤ frameLen }

/-- The Transport's answer to the read of six bytes (20_memory.md R34). -/
inductive ReadAnswer where
  | bytes (bs : RxBytes)
  | err
deriving DecidableEq, Repr

/-- A write's outcome as the trace shows it: `Count(k)` or `Err`. -/
inductive WriteResult where
  | count (k : Nat)
  | err
deriving DecidableEq, Repr

/-- A read's outcome as the trace shows it: `Bytes(bs)` or `Err`. -/
inductive ReadResult where
  | bytes (bs : List Byte)
  | err
deriving DecidableEq, Repr

/-- The event alphabet of 00_scope.md R9. -/
inductive Event where
  | hostStart
  | hostStop
  | busWrite (bytes : List Byte) (answer : WriteResult)
  | busRead (n : Nat) (answer : ReadResult)
  | sink (kind : SinkKind) (chan : BitVec 3) (value : BitVec 10)
  | delay (d : DelayName)
  | cond (c : Condition)
  | stopped
deriving DecidableEq, Repr

/-- An item of a scenario script (30_encoding.md R63): a host command, a reset, a wait, or a Transport answer. `advance` is
the model's own (DESIGN CHOICE, log 2): with it a host command can stand between any two sequencer steps (41_sequencer.md R90).
The last two are the model's own too (DESIGN CHOICE, log 3): they present an operand to the decoder's combinational functions,
which no word of the block selects. -/
inductive Item where
  /-- `RESET`; `draw` is what the 48 unspecified bits of FRAME come up as this time (70_reset_and_hazards.md R162) -/
  | reset (draw : Frame)
  /-- `START` -/
  | start
  /-- `STOP` -/
  | stop
  /-- `WAIT` -/
  | wait
  /-- `W2 -> a`, the answer to the handshake write -/
  | w2 (a : WriteAnswer 2)
  /-- `W1 -> a`, the answer to the poll-request write -/
  | w1 (a : WriteAnswer 1)
  /-- `R6 -> a`, the answer to the read -/
  | r6 (a : ReadAnswer)
  /-- the model's own: the sequencer takes one step, one that asks for no answer -/
  | advance
  /-- the model's own: a byte presented to `DEOBF` -/
  | probeByte (b : Byte)
  /-- the model's own: 48 bits presented to one frame function -/
  | probeFrame (fn : FrameFn) (w : BitVec 48)
deriving DecidableEq, Repr

end Sys2Proof
end

