-- ==== Sys2Proof/Machine/State.lean ====
section
/-! DEFINITION. State: every element of 10_state.md R20 and R23, the configuration every step takes, and the model's own
fields: the pending scenario, the trace, the decoder's output and the condition pulses not yet shown. -/

namespace Sys2Proof.Machine

open Sys2Proof

/-- What stops the machine with a fault: nothing. "No entry below has this treatment: the block has no fault of its own"
(93_implementation_defined.md part 1, 60_exceptions.md R143), so the type has no constructor. -/
inductive Fault where
deriving DecidableEq, Repr

/-- Which rule of 30_encoding.md R63 a scenario breaks; the last is the rule of the model's own item. -/
inductive ScenarioDefect where
  /-- the head is a Transport answer while `PHASE = 0` -/
  | answerWhileIdle
  /-- the head is an answer of the wrong shape for the bus operation the sequencer performs -/
  | wrongAnswerShape
  /-- the head is `WAIT` while the step the host waits for issues a bus operation -/
  | waitAtBusOperation
  /-- the head is `advance` while the sequencer's next step issues a bus operation: it is no answer (the model's own, log 2) -/
  | advanceAtBusOperation
deriving DecidableEq, Repr

/-- Why a step has no meaning. -/
inductive Refusal where
  /-- Raised by `exec` for an instruction the model does not have; no arm of `exec` raises it. Safe. -/
  | notModelled (mnemonic : String)
  /-- Raised by `step` (through `fetch`) on a scenario that 30_encoding.md R63 calls malformed: the environment's fault, never
  an operation's. Safe: nothing is claimed of such a run. -/
  | malformedScenario (d : ScenarioDefect)
deriving DecidableEq, Repr

/-- The model's own: what the decoder's combinational output shows after one of its functions was probed. The spec keeps no
such register (10_state.md R21); no rule reads this field (DESIGN CHOICE, log 3). -/
inductive DecoderOut where
  | nothing
  /-- `DEOBF` -/
  | byte (b : Byte)
  /-- `DEOBF6` -/
  | frame (d : DFrame)
  /-- `STICK_X`, `STICK_Y` -/
  | stick (v : BitVec 8)
  /-- `ACCEL_X`, `ACCEL_Y`, `ACCEL_Z` -/
  | accel (v : BitVec 10)
  /-- `BUTTON_C`, `BUTTON_Z` -/
  | button (v : BitVec 1)
  /-- `DECODE` -/
  | sample (v : Sample)
deriving DecidableEq, Repr

/-- The whole state. -/
structure State where
  /-- `CW`, `PARTIAL_POLICY`, `TERR_FATAL`: no step changes them (10_state.md R19; 00_scope.md R6) -/
  cfg : Config
  /-- `RUN`: false Stopped, true Running (10_state.md R13) -/
  run : Bool
  /-- `STOP_REQ`, the cancellation signal (R14) -/
  stopReq : Bool
  /-- `PHASE`, the step register (R12) -/
  phase : Phase
  /-- `CYCLE_COUNTER`, a number below `2 ^ CW` (R16) -/
  cycleCounter : Nat
  /-- `FRAME[0..5]` (R10) -/
  frame : Frame
  /-- `RXCOUNT` (R17) -/
  rxCount : BitVec 3
  /-- `RXERR` (R15) -/
  rxErr : Bool
  /-- `STATUS`: bit 0 TERR, 1 HSINC, 2 POLLF, 3 FRINC (R18) -/
  status : BitVec 4
  /-- `TIMER`, hidden, of the clocked rendering (R23) -/
  timer : Nat
  /-- the sink beat index, hidden, of the clocked rendering (R23) -/
  sinkBeat : BitVec 3
  /-- the model's own, of the clocked rendering: conditions whose `cond_valid` pulse is still to come (log 8) -/
  condPulses : List Condition
  /-- the model's own: the host's commands and the Transport's answers still to come, in order (30_encoding.md R63) -/
  script : List Item
  /-- the model's own: the observable trace, oldest event first (00_scope.md R9) -/
  trace : List Event
  /-- the model's own: the decoder's output after a probe (log 3) -/
  decoderOut : DecoderOut
deriving DecidableEq, Repr

/-- The state right after reset: 70_reset_and_hazards.md R161, with the default parameters of 00_scope.md R6 and an empty
scenario and trace. FRAME is unspecified there (R162): its zeros are a DESIGN CHOICE (log 1); the `RESET` item draws the 48
bits instead, and no statement rests on the zeros. -/
def State.reset : State where
  cfg := Config.default
  run := false
  stopReq := false
  phase := .idle
  cycleCounter := 0
  frame := { b0 := 0, b1 := 0, b2 := 0, b3 := 0, b4 := 0, b5 := 0 }
  rxCount := 0
  rxErr := false
  status := 0
  timer := 0
  sinkBeat := 0
  condPulses := []
  script := []
  trace := []
  decoderOut := .nothing

end Sys2Proof.Machine
end

