-- ==== Sys2Proof/Machine/Operands.lean ====
section
/-! DEFINITION. Operands: the named constants of 00_scope.md R5 and every operand the spec assembles: the Frame Decoder's
fields (40_frame_decoder.md), the cadence operand and the increment (30_encoding.md R57, R58), the frame buffer's load. -/

namespace Sys2Proof.Machine

open Sys2Proof

/-- `XOR_KEY` (00_scope.md R5). -/
def xorKey : Byte := 0x17
/-- `ADD_KEY` (00_scope.md R5). -/
def addKey : Byte := 0x17
/-- `SHIFT_X` (00_scope.md R5). -/
def shiftX : Nat := 2
/-- `SHIFT_Y` (00_scope.md R5). -/
def shiftY : Nat := 4
/-- `SHIFT_Z` (00_scope.md R5). -/
def shiftZ : Nat := 6
/-- `HS_PAYLOAD`, first byte sent first (00_scope.md R5, 30_encoding.md R54). -/
def hsPayload : List Byte := [0x40, 0x00]
/-- `HS_LEN` (00_scope.md R5). -/
def hsLen : Nat := 2
/-- `HS_PERIOD` (00_scope.md R5). -/
def hsPeriod : Nat := 10
/-- The one byte `POLL_BYTE` as a payload (00_scope.md R5, 30_encoding.md R54). -/
def pollPayload : List Byte := [0x00]
/-- `POLL_LEN` (00_scope.md R5). -/
def pollLen : Nat := 1
/-- `T_SETTLE_CMD`, `T_SETTLE_DATA`, `T_REST` in milliseconds, lower bounds (00_scope.md R5, 92_eei_decisions.md D8). -/
def delayMillis : DelayName → Nat
  | .settleCmd => 1
  | .settleData => 1
  | .rest => 14

/-- `FRAME[i]`, or `D[i]` of a de-obfuscated frame (10_state.md R10). -/
def frameByte (f : Frame) (i : Fin 6) : Byte :=
  match i with
  | 0 => f.b0
  | 1 => f.b1
  | 2 => f.b2
  | 3 => f.b3
  | 4 => f.b4
  | 5 => f.b5

/-- `for i in 0 .. m-1: FRAME[i] <- bs[i]`, with `FRAME[m .. 5]` unchanged (41_sequencer.md R96, 10_state.md R11). -/
def loadFrame (f : Frame) (bs : List Byte) : Frame where
  b0 := bs[0]?.getD f.b0
  b1 := bs[1]?.getD f.b1
  b2 := bs[2]?.getD f.b2
  b3 := bs[3]?.getD f.b3
  b4 := bs[4]?.getD f.b4
  b5 := bs[5]?.getD f.b5

/-- `DEOBF`: exclusive or first, then the addition modulo 256 (40_frame_decoder.md R70). -/
def deobf (b : Byte) : Byte := (b ^^^ xorKey) + addKey

/-- `OBF`, the inverse of `DEOBF`; no operation of the block, given to build frames (40_frame_decoder.md R81). -/
def obf (d : Byte) : Byte := (d - addKey) ^^^ xorKey

/-- `DEOBF6`: the six bytes alike and independently (R71). -/
def deobf6 (f : Frame) : DFrame where
  b0 := deobf f.b0
  b1 := deobf f.b1
  b2 := deobf f.b2
  b3 := deobf f.b3
  b4 := deobf f.b4
  b5 := deobf f.b5

/-- `STICK_X` (R72). -/
def stickX (d : DFrame) : BitVec 8 := d.b0
/-- `STICK_Y` (R73). -/
def stickY (d : DFrame) : BitVec 8 := d.b1

/-- The ten bits of an acceleration: `(high << 2) | ((D[5] >> shift) & 0x03)`, taken at ten bits (30_encoding.md R57). -/
def assembleAccel (high low : Byte) (shift : Nat) : BitVec 10 :=
  (high.setWidth 10 <<< 2) ||| ((low >>> shift) &&& 0x03).setWidth 10

/-- `ACCEL_X` (R74). -/
def accelX (d : DFrame) : BitVec 10 := assembleAccel d.b2 d.b5 shiftX
/-- `ACCEL_Y` (R75). -/
def accelY (d : DFrame) : BitVec 10 := assembleAccel d.b3 d.b5 shiftY
/-- `ACCEL_Z` (R76). -/
def accelZ (d : DFrame) : BitVec 10 := assembleAccel d.b4 d.b5 shiftZ
/-- `BUTTON_C = (D[5] >> 1) & 1`, raw (R77). -/
def buttonC (d : DFrame) : BitVec 1 := ((d.b5 >>> 1) &&& 1).setWidth 1
/-- `BUTTON_Z = D[5] & 1`, raw (R78). -/
def buttonZ (d : DFrame) : BitVec 1 := (d.b5 &&& 1).setWidth 1

/-- The seven fields of a de-obfuscated frame (R79). -/
def unpackSample (d : DFrame) : Sample where
  stickX := stickX d
  stickY := stickY d
  accelX := accelX d
  accelY := accelY d
  accelZ := accelZ d
  buttonC := buttonC d
  buttonZ := buttonZ d

/-- `DECODE`, the Frame Decoder (R79). -/
def decodeFrame (f : Frame) : Sample := unpackSample (deobf6 f)

/-- The eight Event Sink calls of one Sample, in order (20_memory.md R42). -/
def sampleEvents (v : Sample) : List Event :=
  [ .sink .axis 0 (v.stickX.setWidth 10),
    .sink .axis 1 (v.stickY.setWidth 10),
    .sink .axis 2 v.accelX,
    .sink .axis 3 v.accelY,
    .sink .axis 4 v.accelZ,
    .sink .button 5 (v.buttonC.setWidth 10),
    .sink .button 6 (v.buttonZ.setWidth 10),
    .sink .sync 7 0 ]

/-- The cadence test of `HS`: `CYCLE_COUNTER mod 10 = 0` (30_encoding.md R58, 41_sequencer.md R91). -/
def handshakeDue (s : State) : Bool := s.cycleCounter % hsPeriod = 0

/-- The increment of `INC`, modulo `2 ^ CW` (41_sequencer.md R92). -/
def nextCounter (cw c : Nat) : Nat := (c + 1) % 2 ^ cw

/-- The test of `DECRPT` for sending no Sample (41_sequencer.md R97). -/
def dropsSample (s : State) : Bool :=
  s.cfg.partialPolicy = .dropSample && (s.rxErr || decide (s.rxCount.toNat < frameLen))

/-- A write's answer as the trace records it. -/
def writeResult {n : Nat} : WriteAnswer n → WriteResult
  | .count k => .count k.val
  | .err => .err

/-- A read's answer as the trace records it. -/
def readResult : ReadAnswer → ReadResult
  | .bytes bs => .bytes bs.val
  | .err => .err

end Sys2Proof.Machine
end

