-- ==== Sys2Proof/Machine/Flags.lean ====
section
/-! DEFINITION. Flags: the condition codes and the sticky bits of STATUS (10_state.md R18, 60_exceptions.md R130). -/

namespace Sys2Proof.Machine

open Sys2Proof

/-- The code of a condition (60_exceptions.md R130). -/
def condCode : Condition → BitVec 3
  | .transportError => 0
  | .handshakeIncomplete => 1
  | .pollRequestFailed => 2
  | .frameIncomplete => 3
  | .workerSpawnFailed => 4
  | .invalidBusAddress => 5

/-- The STATUS bit of a condition, as a mask; conditions 4 and 5 have none (10_state.md R18). -/
def statusMask : Condition → BitVec 4
  | .transportError => 0b0001
  | .handshakeIncomplete => 0b0010
  | .pollRequestFailed => 0b0100
  | .frameIncomplete => 0b1000
  | .workerSpawnFailed => 0
  | .invalidBusAddress => 0

/-- STATUS after the raise of a condition: its bit set, the others as they were (10_state.md R18). -/
def raisedStatus (c : Condition) (status : BitVec 4) : BitVec 4 := status ||| statusMask c

/-- `STATUS.TERR`. -/
def statusTerr (s : State) : Bool := s.status.getLsbD 0
/-- `STATUS.HSINC`. -/
def statusHsinc (s : State) : Bool := s.status.getLsbD 1
/-- `STATUS.POLLF`. -/
def statusPollf (s : State) : Bool := s.status.getLsbD 2
/-- `STATUS.FRINC`. -/
def statusFrinc (s : State) : Bool := s.status.getLsbD 3

end Sys2Proof.Machine
end

