-- ==== Sys2Proof/Machine/Ops.lean ====
section
/-! DEFINITION. Ops: the named operations over the state: the trace, the step register, the raise of a condition, the
entry for a fatal one, the return there is not, the frame buffer's write, the reset event. -/

namespace Sys2Proof.Machine

open Sys2Proof

/-- Record events, in order, at the end of the trace (00_scope.md R9). -/
def record (es : List Event) (s : State) : State := { s with trace := s.trace ++ es }

/-- `PHASE <- p` (00_scope.md R8). -/
def goto (p : Phase) (s : State) : State := { s with phase := p }

/-- `raise c`: TAKING A CONDITION, the block's counterpart of an exception. It does exactly two things: it appends
`Cond(c)` and sets the STATUS bit of `c` (60_exceptions.md R130). Nothing is saved, no mode changes and control goes
nowhere (R143), so there is no return operation beside it (R145). -/
def raiseCond (c : Condition) (s : State) : State :=
  { s with status := raisedStatus c s.status, trace := s.trace ++ [.cond c] }

/-- The entry for a fatal condition: RUN, STOP_REQ and PHASE to 0 and `Stopped` recorded; the rest stays
(41_sequencer.md R103, 60_exceptions.md R144). -/
def abortSession (s : State) : State :=
  { s with run := false, stopReq := false, phase := .idle, trace := s.trace ++ [.stopped] }

/-- How a step that met an `Err` ends, after its raises: the abort when `TERR_FATAL`, else the next step as after a success
(60_exceptions.md R131, R143, R144). -/
def afterError (next : Phase) (s : State) : State :=
  if s.cfg.terrFatal then abortSession s else goto next s

/-- `for i in 0 .. m-1: FRAME[i] <- bs[i]; RXERR <- 0; RXCOUNT <- m` (41_sequencer.md R96). -/
def receiveBytes (bs : List Byte) (s : State) : State :=
  { s with frame := loadFrame s.frame bs, rxErr := false, rxCount := BitVec.ofNat 3 bs.length }

/-- `RXERR <- 1; RXCOUNT <- 0`, FRAME unchanged (41_sequencer.md R96). -/
def receiveError (s : State) : State := { s with rxErr := true, rxCount := 0 }

/-- The reset event: every element of the block takes its reset value, whatever it held, and no event is recorded
(70_reset_and_hazards.md R160, R161, R163). `draw` is what FRAME's unspecified bits come up as (R162). The configuration,
the scenario, the trace and the probe's output are no elements of the block. -/
def resetBlock (draw : Frame) (s : State) : State :=
  { s with
    run := false, stopReq := false, phase := .idle, cycleCounter := 0, frame := draw,
    rxCount := 0, rxErr := false, status := 0, timer := 0, sinkBeat := 0, condPulses := [] }

/-- Take the head of the scenario. -/
def popItem (s : State) : State := { s with script := s.script.tail }

end Sys2Proof.Machine
end

