-- ==== Sys2Proof/Machine/FrameDecoder.lean ====
section
/-! DEFINITION. FrameDecoder: the ten decoder functions as operations of their own (40_frame_decoder.md R70 to R79). Each is
combinational: it writes no state of the block, and its result stands on the model's `decoderOut` (log 3). -/

namespace Sys2Proof.Machine

open Sys2Proof

/-- Show a value on the decoder's output; nothing else changes (40_frame_decoder.md, opening). -/
def showDecoded (v : DecoderOut) (s : State) : State := { s with decoderOut := v }

/-- `DEOBF b` (R70). -/
def execDeobf (b : Byte) (s : State) : Host.Outcome State Fault Refusal := .next (showDecoded (.byte (deobf b)) s)

/-- `DEOBF6 f` (R71). -/
def execDeobf6 (f : Frame) (s : State) : Host.Outcome State Fault Refusal := .next (showDecoded (.frame (deobf6 f)) s)

/-- `STICK_X d` (R72). -/
def execStickX (d : DFrame) (s : State) : Host.Outcome State Fault Refusal := .next (showDecoded (.stick (stickX d)) s)

/-- `STICK_Y d` (R73). -/
def execStickY (d : DFrame) (s : State) : Host.Outcome State Fault Refusal := .next (showDecoded (.stick (stickY d)) s)

/-- `ACCEL_X d` (R74). -/
def execAccelX (d : DFrame) (s : State) : Host.Outcome State Fault Refusal := .next (showDecoded (.accel (accelX d)) s)

/-- `ACCEL_Y d` (R75). -/
def execAccelY (d : DFrame) (s : State) : Host.Outcome State Fault Refusal := .next (showDecoded (.accel (accelY d)) s)

/-- `ACCEL_Z d` (R76). -/
def execAccelZ (d : DFrame) (s : State) : Host.Outcome State Fault Refusal := .next (showDecoded (.accel (accelZ d)) s)

/-- `BUTTON_C d` (R77). -/
def execButtonC (d : DFrame) (s : State) : Host.Outcome State Fault Refusal := .next (showDecoded (.button (buttonC d)) s)

/-- `BUTTON_Z d` (R78). -/
def execButtonZ (d : DFrame) (s : State) : Host.Outcome State Fault Refusal := .next (showDecoded (.button (buttonZ d)) s)

/-- `DECODE f` (R79). -/
def execDecode (f : Frame) (s : State) : Host.Outcome State Fault Refusal := .next (showDecoded (.sample (decodeFrame f)) s)

end Sys2Proof.Machine
end

