-- ==== Sys2Proof/Machine/Sequencer.lean ====
section
/-! DEFINITION. Sequencer: the ten phase operations of 41_sequencer.md R91 to R100. What a bus operation does with a given
answer stands apart from where the answer comes from: the transaction-level meaning takes it from the scenario, the clocked
rendering (Clocked.lean) from its port. Without an answer the sequencer has no step: the state stays as it is
(20_memory.md R39). -/

namespace Sys2Proof.Machine

open Sys2Proof

/-- `HS` once the handshake write is answered (41_sequencer.md R91). -/
def handshakeAnswered (a : WriteAnswer 2) (s : State) : State :=
  let s1 := record [.busWrite hsPayload (writeResult a)] s
  match a with
  | .err => afterError .inc (raiseCond .transportError s1)
  | .count k => if k.val < hsLen then goto .inc (raiseCond .handshakeIncomplete s1) else goto .inc s1

/-- `POLL` once the poll-request write is answered (41_sequencer.md R94). -/
def pollAnswered (a : WriteAnswer 1) (s : State) : State :=
  let s1 := record [.busWrite pollPayload (writeResult a)] s
  match a with
  | .err => afterError .dlyData (raiseCond .pollRequestFailed (raiseCond .transportError s1))
  | .count k => if k.val < pollLen then goto .dlyData (raiseCond .pollRequestFailed s1) else goto .dlyData s1

/-- `RD6` once the read is answered (41_sequencer.md R96). -/
def readAnswered (a : ReadAnswer) (s : State) : State :=
  let s1 := record [.busRead frameLen (readResult a)] s
  match a with
  | .err => afterError .decrpt (receiveError (raiseCond .transportError s1))
  | .bytes bs =>
    let s2 := receiveBytes bs.val s1
    if bs.val.length < frameLen then goto .decrpt (raiseCond .frameIncomplete s2) else goto .decrpt s2

/-- A delay phase: one step that records `Delay(d)` and goes on (41_sequencer.md R93). -/
def delayElapsed (d : DelayName) (next : Phase) (s : State) : State := goto next (record [.delay d] s)

/-- The Sample that `DECRPT` sends, as its eight events, or none (41_sequencer.md R97). -/
def reportEvents (s : State) : List Event :=
  if dropsSample s then [] else sampleEvents (decodeFrame s.frame)

/-- `CHK` (41_sequencer.md R99). -/
def cancellationChecked (s : State) : State :=
  if s.stopReq then record [.stopped] { s with run := false, stopReq := false, phase := .idle }
  else goto .hs s

/-- `IDLE`: no step, nothing changes (41_sequencer.md R100). -/
def execIdle (s : State) : Host.Outcome State Fault Refusal := .next s

/-- `HS`: the conditional handshake write (R91). -/
def execHs (s : State) : Host.Outcome State Fault Refusal :=
  if handshakeDue s then
    match s.script with
    | .w2 a :: _ => .next (handshakeAnswered a (popItem s))
    | _ => .next s
  else .next (goto .inc s)

/-- `INC`: the cycle counter, modulo `2 ^ CW` (R92). -/
def execInc (s : State) : Host.Outcome State Fault Refusal :=
  .next (goto .dlyCmd { s with cycleCounter := nextCounter s.cfg.cw s.cycleCounter })

/-- `DLY_CMD` (R93). -/
def execDlyCmd (s : State) : Host.Outcome State Fault Refusal := .next (delayElapsed .settleCmd .poll s)

/-- `POLL`: the poll-request write (R94). -/
def execPoll (s : State) : Host.Outcome State Fault Refusal :=
  match s.script with
  | .w1 a :: _ => .next (pollAnswered a (popItem s))
  | _ => .next s

/-- `DLY_DATA` (R95). -/
def execDlyData (s : State) : Host.Outcome State Fault Refusal := .next (delayElapsed .settleData .rd6 s)

/-- `RD6`: the read of one frame (R96). -/
def execRd6 (s : State) : Host.Outcome State Fault Refusal :=
  match s.script with
  | .r6 a :: _ => .next (readAnswered a (popItem s))
  | _ => .next s

/-- `DECRPT`: decode and report (R97). -/
def execDecrpt (s : State) : Host.Outcome State Fault Refusal := .next (goto .dlyRest (record (reportEvents s) s))

/-- `DLY_REST` (R98). -/
def execDlyRest (s : State) : Host.Outcome State Fault Refusal := .next (delayElapsed .rest .chk s)

/-- `CHK`: the cancellation check (R99). -/
def execChk (s : State) : Host.Outcome State Fault Refusal := .next (cancellationChecked s)

end Sys2Proof.Machine
end

