-- ==== Sys2Proof/Machine/Session.lean ====
section
/-! DEFINITION. Session: the host's two commands (42_session.md R121, R122) and its read-out (30_encoding.md R55). -/

namespace Sys2Proof.Machine

open Sys2Proof

/-- `START`: a session begins when none runs; else the command is recorded and nothing changes (42_session.md R121). -/
def startCommand (s : State) : State :=
  let s1 := record [.hostStart] s
  if s.run then s1
  else { s1 with run := true, stopReq := false, cycleCounter := 0, status := 0, phase := .hs }

/-- `STOP`: the cancellation signal is set when a session runs; else the command is recorded and nothing changes
(42_session.md R122). -/
def stopCommand (s : State) : State :=
  let s1 := record [.hostStop] s
  if s.run then { s1 with stopReq := true } else s1

/-- `START` (R121). -/
def execStart (s : State) : Host.Outcome State Fault Refusal := .next (startCommand s)

/-- `STOP` (R122). -/
def execStop (s : State) : Host.Outcome State Fault Refusal := .next (stopCommand s)

/-- What the host can read at any time (30_encoding.md R55, 10_state.md R18). -/
structure Readout where
  running : Bool
  stopping : Bool
  status : BitVec 4
deriving DecidableEq, Repr

/-- The host's read-out of a state. -/
def readout (s : State) : Readout := { running := s.run, stopping := s.stopReq, status := s.status }

end Sys2Proof.Machine
end

