-- ==== Sys2Proof/Machine/Dispatch.lean ====
section
/-! DEFINITION. Dispatch: one arm per operation of spec/opcode_table.json. -/

namespace Sys2Proof.Machine

open Sys2Proof

def exec (i : Instr) (s : State) : Host.Outcome State Fault Refusal :=
  match i with
  | .idle => Sys2Proof.Machine.execIdle s
  | .hs => Sys2Proof.Machine.execHs s
  | .inc => Sys2Proof.Machine.execInc s
  | .dlyCmd => Sys2Proof.Machine.execDlyCmd s
  | .poll => Sys2Proof.Machine.execPoll s
  | .dlyData => Sys2Proof.Machine.execDlyData s
  | .rd6 => Sys2Proof.Machine.execRd6 s
  | .decrpt => Sys2Proof.Machine.execDecrpt s
  | .dlyRest => Sys2Proof.Machine.execDlyRest s
  | .chk => Sys2Proof.Machine.execChk s
  | .start => Sys2Proof.Machine.execStart s
  | .stop => Sys2Proof.Machine.execStop s
  | .deobf b => Sys2Proof.Machine.execDeobf b s
  | .deobf6 f => Sys2Proof.Machine.execDeobf6 f s
  | .stickX d => Sys2Proof.Machine.execStickX d s
  | .stickY d => Sys2Proof.Machine.execStickY d s
  | .accelX d => Sys2Proof.Machine.execAccelX d s
  | .accelY d => Sys2Proof.Machine.execAccelY d s
  | .accelZ d => Sys2Proof.Machine.execAccelZ d s
  | .buttonC d => Sys2Proof.Machine.execButtonC d s
  | .buttonZ d => Sys2Proof.Machine.execButtonZ d s
  | .decode f => Sys2Proof.Machine.execDecode f s

end Sys2Proof.Machine
end

