-- ==== Sys2Proof/WellFormed.lean ====
section
/-! DEFINITION. WellFormed: what the spec asks of parameters, of operation words and of answer words before the machine
meets them. Each check has a refused ill-formed term in Tests/Slice0.lean. -/

namespace Sys2Proof

/-- `CW >= 4` (00_scope.md R6). -/
def Config.wellFormed (c : Config) : Bool := 4 ≤ c.cw

/-- `F_CLK >= 1000` hertz, a number (00_scope.md R6). -/
def ClockFreq.wellFormed (f : ClockFreq) : Bool := 0 < f.den && 1000 * f.den ≤ f.num

/-- Why an instance of the block is not built. -/
inductive BuildError where
  /-- the bus address is not 0x52: the condition `InvalidBusAddress` (60_exceptions.md R136) -/
  | invalidBusAddress (addr : Nat)
  /-- `CW < 4` (00_scope.md R6) -/
  | counterTooNarrow (cw : Nat)
deriving DecidableEq, Repr

/-- Elaboration of an instance bound to `addr`: an instance with another address than 0x52 is refused
(60_exceptions.md R136), and so is a counter narrower than four bits. -/
def buildInstance (addr : Nat) (c : Config) : Except BuildError Config :=
  if addr ≠ busAddr then .error (.invalidBusAddress addr)
  else if c.wellFormed then .ok c
  else .error (.counterTooNarrow c.cw)

/-- A step code is one of the ten (30_encoding.md R51); 10 to 15 are reserved (R60). A command word stands for one
operation when exactly one of its bits is set (R55). Every operand of the decoder is legal (R61). -/
def OpWord.wellFormed : OpWord → Bool
  | .ph code => code ≤ 9
  | .cmd word => word = 0b01 || word = 0b10
  | .byte _ => true
  | .fr48 _ _ => true

/-- Every operation with every operand is well formed: the phase operations and the commands have no operand, and no
frame is illegal (30_encoding.md R61; the lengths are in the types, 93_implementation_defined.md U11). -/
def Instr.wellFormed : Instr → Bool
  | .idle => true
  | .hs => true
  | .inc => true
  | .dlyCmd => true
  | .poll => true
  | .dlyData => true
  | .rd6 => true
  | .decrpt => true
  | .dlyRest => true
  | .chk => true
  | .start => true
  | .stop => true
  | .deobf _ => true
  | .deobf6 _ => true
  | .stickX _ => true
  | .stickY _ => true
  | .accelX _ => true
  | .accelY _ => true
  | .accelZ _ => true
  | .buttonC _ => true
  | .buttonZ _ => true
  | .decode _ => true

/-- A Transport answer word is inside the contract when its count is at most the requested length
(20_memory.md R33, R34; 30_encoding.md R61). -/
def countWithinRequest (requested : Nat) (count : BitVec 3) : Bool := count.toNat ≤ requested

end Sys2Proof
end

