-- ==== Sys2Proof/Decode.lean ====
section
/-! DEFINITION. Decode: operation words to operations, total, rejecting by name; then the encoder, from the same tables
(30_encoding.md sections 1 to 5, spec/opcode_table.json). -/

namespace Sys2Proof

/-- Why an operation word stands for no single operation. -/
inductive DecodeError where
  /-- PHASE codes 10 to 15 (30_encoding.md R60) -/
  | reservedPhase (code : BitVec 4)
  /-- `CMD = 0b00`: no command (30_encoding.md R55) -/
  | noCommand
  /-- `CMD = 0b11`: two operations, STOP and then START (42_session.md R123); see `cmdCommands` -/
  | twoCommands
deriving DecidableEq, Repr

/-- The code of a step: 0 for IDLE, else the step's number (30_encoding.md R51). -/
def Phase.code : Phase → BitVec 4
  | .idle => 0
  | .hs => 1
  | .inc => 2
  | .dlyCmd => 3
  | .poll => 4
  | .dlyData => 5
  | .rd6 => 6
  | .decrpt => 7
  | .dlyRest => 8
  | .chk => 9

/-- The step a code stands for; the reserved codes are rejected (30_encoding.md R51, R60). -/
def Phase.ofCode (code : BitVec 4) : Except DecodeError Phase :=
  if code = 0 then .ok .idle
  else if code = 1 then .ok .hs
  else if code = 2 then .ok .inc
  else if code = 3 then .ok .dlyCmd
  else if code = 4 then .ok .poll
  else if code = 5 then .ok .dlyData
  else if code = 6 then .ok .rd6
  else if code = 7 then .ok .decrpt
  else if code = 8 then .ok .dlyRest
  else if code = 9 then .ok .chk
  else .error (.reservedPhase code)

/-- The phase operation a step performs (10_state.md R12). -/
def Phase.instr : Phase → Instr
  | .idle => .idle
  | .hs => .hs
  | .inc => .inc
  | .dlyCmd => .dlyCmd
  | .poll => .poll
  | .dlyData => .dlyData
  | .rd6 => .rd6
  | .decrpt => .decrpt
  | .dlyRest => .dlyRest
  | .chk => .chk

/-- `F = FRAME[5] ++ … ++ FRAME[0]`: byte `k` at bits `8k+7 : 8k` (30_encoding.md R52). -/
def Frame.toBits (f : Frame) : BitVec 48 :=
  f.b5 ++ f.b4 ++ f.b3 ++ f.b2 ++ f.b1 ++ f.b0

/-- The six bytes of a 48-bit frame word (30_encoding.md R52). -/
def Frame.ofBits (w : BitVec 48) : Frame where
  b0 := w.extractLsb' 0 8
  b1 := w.extractLsb' 8 8
  b2 := w.extractLsb' 16 8
  b3 := w.extractLsb' 24 8
  b4 := w.extractLsb' 32 8
  b5 := w.extractLsb' 40 8

/-- The operation a frame function is, on its operand. -/
def FrameFn.instr : FrameFn → Frame → Instr
  | .deobf6, f => .deobf6 f
  | .stickX, f => .stickX f
  | .stickY, f => .stickY f
  | .accelX, f => .accelX f
  | .accelY, f => .accelY f
  | .accelZ, f => .accelZ f
  | .buttonC, f => .buttonC f
  | .buttonZ, f => .buttonZ f
  | .decode, f => .decode f

/-- The commands a CMD word gives, in the order they are performed: `0b11` is STOP and then START
(30_encoding.md R55, 42_session.md R123). -/
def cmdCommands (word : BitVec 2) : List Instr :=
  (if word.getLsbD 1 then [.stop] else []) ++ (if word.getLsbD 0 then [.start] else [])

/-- The one operation a CMD word stands for (30_encoding.md R55). -/
def decodeCmd (word : BitVec 2) : Except DecodeError Instr :=
  match cmdCommands word with
  | [] => .error .noCommand
  | [i] => .ok i
  | _ :: _ :: _ => .error .twoCommands

/-- The operation an operation word stands for, or the name of the reason it stands for none. -/
def decode : OpWord → Except DecodeError Instr
  | .ph code =>
    match Phase.ofCode code with
    | .ok p => .ok p.instr
    | .error e => .error e
  | .cmd word => decodeCmd word
  | .byte b => .ok (.deobf b)
  | .fr48 fn w => .ok (fn.instr (Frame.ofBits w))

/-- Formats of spec/opcode_table.json by the number of bits a word has. The table gives three formats without a bit that
tells them apart, so at eight bits one reading is fixed: a value below 16 is a PH code, a larger one is the operand of
`DEOBF`; 48 bits are the operand of `DECODE` (DESIGN CHOICE, log 5). -/
def tableOpWord (nbits w : Nat) : Option OpWord :=
  if nbits = 2 ∧ w < 4 then some (.cmd (BitVec.ofNat 2 w))
  else if nbits = 4 ∧ w < 16 then some (.ph (BitVec.ofNat 4 w))
  else if nbits = 8 ∧ w < 16 then some (.ph (BitVec.ofNat 4 w))
  else if nbits = 8 ∧ w < 256 then some (.byte (BitVec.ofNat 8 w))
  else if nbits = 48 ∧ w < 2 ^ 48 then some (.fr48 .decode (BitVec.ofNat 48 w))
  else none

/-- The operation the decoder reads from a word of `nbits` bits numbered as the opcode table numbers them. -/
def decodeTableWord (nbits w : Nat) : Option Instr :=
  match tableOpWord nbits w with
  | some ow => match decode ow with
    | .ok i => some i
    | .error _ => none
  | none => none

/-- The operation word of an operation (30_encoding.md R51, R52, R55). -/
def encode : Instr → OpWord
  | .idle => .ph 0b0000
  | .hs => .ph 0b0001
  | .inc => .ph 0b0010
  | .dlyCmd => .ph 0b0011
  | .poll => .ph 0b0100
  | .dlyData => .ph 0b0101
  | .rd6 => .ph 0b0110
  | .decrpt => .ph 0b0111
  | .dlyRest => .ph 0b1000
  | .chk => .ph 0b1001
  | .start => .cmd 0b01
  | .stop => .cmd 0b10
  | .deobf b => .byte b
  | .deobf6 f => .fr48 .deobf6 f.toBits
  | .stickX d => .fr48 .stickX d.toBits
  | .stickY d => .fr48 .stickY d.toBits
  | .accelX d => .fr48 .accelX d.toBits
  | .accelY d => .fr48 .accelY d.toBits
  | .accelZ d => .fr48 .accelZ d.toBits
  | .buttonC d => .fr48 .buttonC d.toBits
  | .buttonZ d => .fr48 .buttonZ d.toBits
  | .decode f => .fr48 .decode f.toBits

/-- How many bits a word has (spec/opcode_table.json, "width"). -/
def OpWord.width : OpWord → Nat
  | .ph _ => 4
  | .cmd _ => 2
  | .byte _ => 8
  | .fr48 _ _ => 48

end Sys2Proof
end

