-- ==== Sys2Proof/Machine/Fetch.lean ====
section
/-! DEFINITION. Fetch: what the machine performs next, from the scenario and the step register, by 30_encoding.md R63; and
where an operation is placed so that the next step performs it. -/

namespace Sys2Proof.Machine

open Sys2Proof

/-- What comes next. -/
inductive Fetched where
  /-- perform operation `i` in state `s` -/
  | run (i : Instr) (s : State)
  /-- an item of the environment with no operation of the block: the state after it -/
  | environment (s : State)
  /-- the scenario breaks R63 -/
  | malformed (d : ScenarioDefect)
deriving DecidableEq, Repr

/-- The sequencer's next step issues a Transport request: HS when the cadence test passes, POLL and RD6 always
(41_sequencer.md R91, R94, R96). -/
def issuesBusOp (s : State) : Bool :=
  match s.phase with
  | .idle => false
  | .hs => handshakeDue s
  | .inc => false
  | .dlyCmd => false
  | .poll => true
  | .dlyData => false
  | .rd6 => true
  | .decrpt => false
  | .dlyRest => false
  | .chk => false

/-- The item answers the bus operation of the phase: `W2` for HS, `W1` for POLL, `R6` for RD6 (R63). -/
def answersPhase (p : Phase) : Item → Bool
  | .w2 _ => p = .hs
  | .w1 _ => p = .poll
  | .r6 _ => p = .rd6
  | .reset _ => false
  | .start => false
  | .stop => false
  | .wait => false
  | .advance => false
  | .probeByte _ => false
  | .probeFrame _ _ => false

/-- A Transport answer at the head of the scenario: the sequencer takes one step; the operation that issues a request finds
the answer there. Malformed while idle, or of the wrong shape for the request (R63). -/
def fetchAnswer (s : State) (it : Item) : Fetched :=
  if s.phase = .idle then .malformed .answerWhileIdle
  else if issuesBusOp s && !answersPhase s.phase it then .malformed .wrongAnswerShape
  else .run s.phase.instr s

/-- The operation performed next: a host command at the head of the scenario, else the phase operation that PHASE selects
(30_encoding.md R59, R63). `advance` is taken with the one sequencer step it stands for, so that what follows it comes directly
after that step (41_sequencer.md R90, log 2); in IDLE there is no such step. -/
def fetch (s : State) : Fetched :=
  match s.script with
  | [] => .run s.phase.instr s
  | .reset draw :: _ => .environment (resetBlock draw (popItem s))
  | .start :: _ => .run .start (popItem s)
  | .stop :: _ => .run .stop (popItem s)
  | .wait :: _ =>
    if s.phase = .idle then .environment (popItem s)
    else if issuesBusOp s then .malformed .waitAtBusOperation
    else .run s.phase.instr s
  | .w2 a :: _ => fetchAnswer s (.w2 a)
  | .w1 a :: _ => fetchAnswer s (.w1 a)
  | .r6 a :: _ => fetchAnswer s (.r6 a)
  | .advance :: _ =>
    if s.phase = .idle then .environment (popItem s)
    else if issuesBusOp s then .malformed .advanceAtBusOperation
    else .run s.phase.instr (popItem s)
  | .probeByte b :: _ => .run (.deobf b) (popItem s)
  | .probeFrame fn w :: _ => .run (fn.instr (Frame.ofBits w)) (popItem s)

/-- A scenario of full success for the bus operation of a phase, if it has one. -/
def successAnswer : Phase → List Item
  | .idle => []
  | .hs => [.w2 (.count 2)]
  | .inc => []
  | .dlyCmd => []
  | .poll => [.w1 (.count 1)]
  | .dlyData => []
  | .rd6 => [.r6 (.bytes ⟨[0, 0, 0, 0, 0, 0], by decide⟩)]
  | .decrpt => []
  | .dlyRest => []
  | .chk => []

/-- The step register at phase `p` of a session that runs exactly when `p` is not IDLE (10_state.md R12), with an answer
ready for the bus operation the phase may issue (log 4). -/
def placePhase (p : Phase) (s : State) : State :=
  { s with phase := p, run := decide (p ≠ .idle), script := successAnswer p }

/-- The scenario holds one item. -/
def placeItem (it : Item) (s : State) : State := { s with script := [it] }

/-- Place an operation so that the very next step performs it: a phase operation in PHASE, a command or a decoder function
as the only item of the scenario (log 4). -/
def placeInstr : Instr → State → State
  | .idle => placePhase .idle
  | .hs => placePhase .hs
  | .inc => placePhase .inc
  | .dlyCmd => placePhase .dlyCmd
  | .poll => placePhase .poll
  | .dlyData => placePhase .dlyData
  | .rd6 => placePhase .rd6
  | .decrpt => placePhase .decrpt
  | .dlyRest => placePhase .dlyRest
  | .chk => placePhase .chk
  | .start => placeItem .start
  | .stop => placeItem .stop
  | .deobf b => placeItem (.probeByte b)
  | .deobf6 f => placeItem (.probeFrame .deobf6 f.toBits)
  | .stickX d => placeItem (.probeFrame .stickX d.toBits)
  | .stickY d => placeItem (.probeFrame .stickY d.toBits)
  | .accelX d => placeItem (.probeFrame .accelX d.toBits)
  | .accelY d => placeItem (.probeFrame .accelY d.toBits)
  | .accelZ d => placeItem (.probeFrame .accelZ d.toBits)
  | .buttonC d => placeItem (.probeFrame .buttonC d.toBits)
  | .buttonZ d => placeItem (.probeFrame .buttonZ d.toBits)
  | .decode f => placeItem (.probeFrame .decode f.toBits)

/-- The table word placed; a word that stands for no operation changes nothing. -/
def placeTableWord (s : State) (nbits w : Nat) : State :=
  match decodeTableWord nbits w with
  | some i => placeInstr i s
  | none => s

end Sys2Proof.Machine
end

