-- ==== Sys2Proof/Machine/Step.lean ====
section
/-! DEFINITION. Step: one atomic step of the sequencer or of the host (41_sequencer.md R90). -/

namespace Sys2Proof.Machine

open Sys2Proof

/-- Fetch, then perform. -/
def step (s : State) : Host.Outcome State Fault Refusal :=
  match fetch s with
  | .run i s' => exec i s'
  | .environment s' => .next s'
  | .malformed d => .refused (.malformedScenario d)

/-- The state in which the very next step performs the operation of a table word (log 4). -/
def State.withFetchWord (s : State) (nbits w : Nat) : State := placeTableWord s nbits w

end Sys2Proof.Machine
end

