-- ==== Sys2Proof/Machine/Scenario.lean ====
section
/-! DEFINITION. Scenario: the pseudo-items of 30_encoding.md R64 as the items they expand to, and the two-command word of
42_session.md R123 as two items. -/

namespace Sys2Proof.Machine

open Sys2Proof

/-- The six bytes of a frame as a full read answer. -/
def fullRead (f : Frame) : ReadAnswer := .bytes ⟨[f.b0, f.b1, f.b2, f.b3, f.b4, f.b5], by simp⟩

/-- `HCYCLE f` (R64). -/
def hcycleItems (f : Frame) : List Item := [.w2 (.count 2), .w1 (.count 1), .r6 (fullRead f)]

/-- `CYCLE f` (R64). -/
def cycleItems (f : Frame) : List Item := [.w1 (.count 1), .r6 (fullRead f)]

/-- `OK f` for a cycle that begins with counter value `c` (R64). -/
def okItems (c : Nat) (f : Frame) : List Item := if c % hsPeriod = 0 then hcycleItems f else cycleItems f

/-- `OK*n f`, the choice made afresh for each cycle, from counter value `c` on (R64). -/
def okItemsN (cw : Nat) : Nat → Nat → Frame → List Item
  | 0, _, _ => []
  | n + 1, c, f => okItems c f ++ okItemsN cw n (nextCounter cw c) f

/-- A CMD word as scenario items: `0b11` is STOP, then START (R123). -/
def commandItems (word : BitVec 2) : List Item :=
  (if word.getLsbD 1 then [.stop] else []) ++ (if word.getLsbD 0 then [.start] else [])

end Sys2Proof.Machine
end

