-- ==== Sys2Proof/Machine/Ports.lean ====
section
/-! DEFINITION. Ports: the port words of the clocked rendering (30_encoding.md R55, R56, R61). -/

namespace Sys2Proof.Machine

open Sys2Proof

/-- A write payload as `tr_req_data`: byte 0 in bits 7:0, byte 1 in bits 15:8 (R55). -/
def payloadBits (bytes : List Byte) : BitVec 16 := bytes[1]?.getD 0 ++ bytes[0]?.getD 0

/-- `TRQ = tr_req_op ++ tr_req_len ++ tr_req_data` (R55). -/
def requestWord (op : BitVec 1) (len : BitVec 3) (data : BitVec 16) : BitVec 20 := op ++ len ++ data

/-- The request the sequencer holds on the Transport port, if any: there is one exactly while it stays in HS (cadence test
passed), POLL or RD6 (R55; 10_state.md R23, the outstanding request). -/
def outstandingRequest (s : State) : Option (BitVec 20) :=
  match s.phase with
  | .idle => none
  | .hs => if handshakeDue s then some (requestWord 0 (BitVec.ofNat 3 hsLen) (payloadBits hsPayload)) else none
  | .inc => none
  | .dlyCmd => none
  | .poll => some (requestWord 0 (BitVec.ofNat 3 pollLen) (payloadBits pollPayload))
  | .dlyData => none
  | .rd6 => some (requestWord 1 (BitVec.ofNat 3 frameLen) 0)
  | .decrpt => none
  | .dlyRest => none
  | .chk => none

/-- `sink_kind` (R56). -/
def sinkKindCode : SinkKind → BitVec 2
  | .axis => 0
  | .button => 1
  | .sync => 2

/-- `SNK = sink_kind ++ sink_chan ++ sink_value` of a sink event; no word for any other event (R56). -/
def sinkWord : Event → Option (BitVec 15)
  | .sink kind chan value => some (sinkKindCode kind ++ chan ++ value)
  | .hostStart => none
  | .hostStop => none
  | .busWrite _ _ => none
  | .busRead _ _ => none
  | .delay _ => none
  | .cond _ => none
  | .stopped => none

/-- The inputs at one rising clock edge (R55, 70_reset_and_hazards.md R160). `draw` is no port: it is what FRAME's
unspecified bits come up as when `rst` is 1 (R162). -/
structure PortsIn where
  rst : Bool
  draw : Frame
  cmdStart : Bool
  cmdStop : Bool
  trRspValid : Bool
  trRspErr : Bool
  trRspCount : BitVec 3
  trRspData : BitVec 48
deriving DecidableEq, Repr

/-- The outputs during one clock (R55, R56). -/
structure PortsOut where
  running : Bool
  stopping : Bool
  status : BitVec 4
  condValid : Bool
  condCode : BitVec 3
  trReqValid : Bool
  trReqOp : BitVec 1
  trReqLen : BitVec 3
  trReqData : BitVec 16
  sinkValid : Bool
  sinkKind : BitVec 2
  sinkChan : BitVec 3
  sinkValue : BitVec 10
deriving DecidableEq, Repr

/-- The `CMD` word `cmd_stop ++ cmd_start` (R55). -/
def commandWord (inp : PortsIn) : BitVec 2 := BitVec.ofBool inp.cmdStop ++ BitVec.ofBool inp.cmdStart

/-- The answer word as the answer to a write of `n` bytes: an error hides the count; a count above the request is clamped
to it (R55, R61). -/
def portWriteAnswer (n : Nat) (inp : PortsIn) : WriteAnswer n :=
  if inp.trRspErr then .err
  else .count ⟨min inp.trRspCount.toNat n, by omega⟩

/-- The answer word's bytes: byte `i` in bits `8i+7 : 8i` (R55). -/
def portBytes (w : BitVec 48) : List Byte :=
  let f := Frame.ofBits w
  [f.b0, f.b1, f.b2, f.b3, f.b4, f.b5]

/-- The answer word as the answer to the read: the bytes at and above the count are ignored, the count is clamped to six
(R55, R61). -/
def portReadAnswer (inp : PortsIn) : ReadAnswer :=
  if inp.trRspErr then .err
  else .bytes ⟨(portBytes inp.trRspData).take (min inp.trRspCount.toNat frameLen), by
    simp only [List.length_take]; omega⟩

end Sys2Proof.Machine
end

