-- ==== Sys2Proof/Machine/Clocked.lean ====
section
/-! DEFINITION. Clocked: the clocked rendering, one rising edge at a time (10_state.md R23, 30_encoding.md R55, R56, R60,
70_reset_and_hazards.md R160, R161, R175). It is a refinement of the transaction-level machine and must give the same trace
(92_eei_decisions.md D1); `step` does not use it. -/

namespace Sys2Proof.Machine

open Sys2Proof

/-- `N = ceil(T * F_CLK)`: the clocks a delay lasts (00_scope.md R6). -/
def ticks (f : ClockFreq) (d : DelayName) : Nat :=
  (delayMillis d * f.num + (1000 * f.den - 1)) / (1000 * f.den)

/-- `TIMER` is loaded on entry to a delay phase (10_state.md R23). -/
def loadTimer (f : ClockFreq) (s : State) : State :=
  match s.phase with
  | .idle => s
  | .hs => s
  | .inc => s
  | .dlyCmd => { s with timer := ticks f .settleCmd }
  | .poll => s
  | .dlyData => { s with timer := ticks f .settleData }
  | .rd6 => s
  | .decrpt => s
  | .dlyRest => { s with timer := ticks f .rest }
  | .chk => s

/-- One clock of a delay phase: TIMER counts down once per clock, and the phase ends when it reaches 0 (R23, R175). -/
def delayClock (d : DelayName) (next : Phase) (s : State) : State :=
  if s.timer ≤ 1 then delayElapsed d next { s with timer := 0 }
  else { s with timer := s.timer - 1 }

/-- One clock of DECRPT: one clock when the Sample is dropped; else one sink event a clock on the sink port, eight in all, in
order, the beat index saying which (R56, R175; `sinkShown`). The trace takes the events of an operation when its step completes,
so the eight stand together in it, after every command of the seven clocks before: DECRPT is one atomic step and no command falls
inside one (41_sequencer.md R90, 92_eei_decisions.md D1; DESIGN CHOICE, log 8). -/
def reportClock (s : State) : State :=
  if dropsSample s then goto .dlyRest s
  else if s.sinkBeat = 7 then
    goto .dlyRest (record (sampleEvents (decodeFrame s.frame)) { s with sinkBeat := 0 })
  else { s with sinkBeat := s.sinkBeat + 1 }

/-- What the sequencer does at one clock edge. A bus phase lasts from its request to its answer; INC, CHK and an HS without a
handshake last one clock (R175). -/
def sequencerClock (f : ClockFreq) (inp : PortsIn) (s : State) : State :=
  match s.phase with
  | .idle => s
  | .hs =>
    if handshakeDue s then
      if inp.trRspValid then handshakeAnswered (portWriteAnswer 2 inp) s else s
    else goto .inc s
  | .inc => loadTimer f (goto .dlyCmd { s with cycleCounter := nextCounter s.cfg.cw s.cycleCounter })
  | .dlyCmd => delayClock .settleCmd .poll s
  | .poll => if inp.trRspValid then loadTimer f (pollAnswered (portWriteAnswer 1 inp) s) else s
  | .dlyData => delayClock .settleData .rd6 s
  | .rd6 => if inp.trRspValid then readAnswered (portReadAnswer inp) s else s
  | .decrpt =>
    if dropsSample s || s.sinkBeat = 7 then loadTimer f (reportClock s) else reportClock s
  | .dlyRest => delayClock .rest .chk s
  | .chk => cancellationChecked s

/-- The conditions among some events. -/
def raisedConds : List Event → List Condition
  | [] => []
  | .cond c :: es => c :: raisedConds es
  | _ :: es => raisedConds es

/-- Every condition the edge raised gets a pulse of its own on `cond_valid`, one clock each, in order; the pulse now showing
ends (30_encoding.md R55, 60_exceptions.md R130). DESIGN CHOICE (log 8): pulses that fall together wait their turn. -/
def pulsesAfter (before after : State) : List Condition :=
  before.condPulses.tail ++ raisedConds (after.trace.drop before.trace.length)

/-- The host's commands of one clock, STOP before START (42_session.md R123). -/
def commandsClock (inp : PortsIn) (s : State) : State :=
  let s1 := if (commandWord inp).getLsbD 1 then stopCommand s else s
  if (commandWord inp).getLsbD 0 then startCommand s1 else s1

/-- One rising clock edge. Reset wins over everything (70_reset_and_hazards.md R160); DESIGN CHOICE (log 8): nothing of that clock enters
the trace, neither the `HostStart` or `HostStop` of a command nor any event of a step that would have completed at this edge (an
answered request, the last clock of a delay, CHK, the last beat of a Sample). Else the host's commands take effect on
the RUN that `running` shows during this clock, so a START while it shows 1 is lost even if the session ends at this very edge
(42_session.md R125, 70_reset_and_hazards.md R172); and then the sequencer moves, if it was not idle when the edge came. DESIGN
CHOICE (log 8): that the commands stand before the sequencer's move, so that a STOP in the clock of CHK is acted on at once; and
that a command in a clock of DECRPT's burst takes effect there and stands in the trace before the whole burst. -/
def clockEdge (f : ClockFreq) (inp : PortsIn) (s : State) : State :=
  if inp.rst then resetBlock inp.draw s
  else
    let s1 := commandsClock inp s
    let s2 := if s.phase = .idle then s1 else sequencerClock f inp s1
    { s2 with condPulses := pulsesAfter s1 s2 }

/-- Edges one after another, the first input first. -/
def clockEdges (f : ClockFreq) (inps : List PortsIn) (s : State) : State :=
  inps.foldl (fun t inp => clockEdge f inp t) s

/-- The Sample event on the sink port during this clock, if any (30_encoding.md R56). -/
def sinkShown (s : State) : Option Event :=
  if s.phase = .decrpt && !dropsSample s then (sampleEvents (decodeFrame s.frame))[s.sinkBeat.toNat]? else none

/-- The outputs of a state (30_encoding.md R55, R56); a word whose valid bit is 0 shows zeros. -/
def portsOut (s : State) : PortsOut :=
  let trq := (outstandingRequest s).getD 0
  let snk := ((sinkShown s).bind sinkWord).getD 0
  { running := s.run
    stopping := s.stopReq
    status := s.status
    condValid := !s.condPulses.isEmpty
    condCode := (s.condPulses.head?.map condCode).getD 0
    trReqValid := (outstandingRequest s).isSome
    trReqOp := trq.extractLsb' 19 1
    trReqLen := trq.extractLsb' 16 3
    trReqData := trq.extractLsb' 0 16
    sinkValid := (sinkShown s).isSome
    sinkKind := snk.extractLsb' 13 2
    sinkChan := snk.extractLsb' 10 3
    sinkValue := snk.extractLsb' 0 10 }

/-- A clocked implementation that finds PHASE at a code: the ten codes are the steps; a reserved one is taken as IDLE, with
RUN and STOP_REQ cleared (30_encoding.md R60). -/
def phaseFound (code : BitVec 4) (s : State) : State :=
  match Phase.ofCode code with
  | .ok p => goto p s
  | .error _ => { s with run := false, stopReq := false, phase := .idle }

/-- A state with the elements that exist only in the clocked rendering taken out (10_state.md R23). -/
def transactionPart (s : State) : State := { s with timer := 0, sinkBeat := 0, condPulses := [] }

end Sys2Proof.Machine
end

