-- ==== Sys2Proof/Safety.lean ====
section
/-! DEFINITION. Safety: what a safe state and a safe trace are, in the terms the claims use. -/

namespace Sys2Proof.Machine

open Sys2Proof

/-- The invariants the spec names: PHASE is IDLE exactly when no session runs (10_state.md R12); a pending stop has a
session to stop (R14); the counter fits its width (R16); RXCOUNT is at most six, and 0 after a failed read (R17). -/
abbrev State.Inv (s : State) : Prop :=
  (s.phase = .idle ↔ s.run = false) ∧ (s.stopReq = true → s.run = true) ∧
    s.cycleCounter < 2 ^ s.cfg.cw ∧ s.rxCount.toNat ≤ 6 ∧ (s.rxErr = true → s.rxCount = 0)

/-- Events of the sequencer's activity: everything but the host's commands and `Stopped` (42_session.md R124). -/
def isActivity : Event → Bool
  | .hostStart => false
  | .hostStop => false
  | .busWrite _ _ => true
  | .busRead _ _ => true
  | .sink _ _ _ => true
  | .delay _ => true
  | .cond _ => true
  | .stopped => false

/-- Whether a start has come since the last `Stopped` (or since the beginning), `open0` being so before the events. -/
def sessionOpen (open0 : Bool) : List Event → Bool
  | [] => open0
  | .hostStart :: es => sessionOpen true es
  | .stopped :: es => sessionOpen false es
  | _ :: es => sessionOpen open0 es

/-- No activity between a `Stopped` and the next start (42_session.md R124). -/
def quietTrace (open0 : Bool) : List Event → Bool
  | [] => true
  | .hostStart :: es => quietTrace true es
  | .stopped :: es => quietTrace false es
  | e :: es => (open0 || !isActivity e) && quietTrace open0 es

/-- The three bus operations of a cycle. -/
inductive BusStep where
  | handshake | pollRequest | read
deriving DecidableEq, Repr

/-- Where the trace stands within a session. -/
inductive TracePos where
  /-- no session -/
  | stopped
  /-- a session has begun and nothing of it is done -/
  | begun
  /-- the long delay of a cycle is over -/
  | rested
  /-- a bus operation is answered: `owed` are the conditions that must come next, in order; `failed` says the answer was an
  error -/
  | answered (bus : BusStep) (owed : List Condition) (failed : Bool)
  /-- the delay before the poll request is over -/
  | cmdSettled
  /-- the delay before the read is over -/
  | dataSettled
  /-- the next sink event is number `beat` -/
  | reporting (beat : Fin 8)
  /-- the sync has gone out -/
  | reported
deriving DecidableEq, Repr

/-- The position after the handshake write with this outcome (41_sequencer.md R91). -/
def handshakeOwes : WriteResult → Option TracePos
  | .count 2 => some (.answered .handshake [] false)
  | .count 1 => some (.answered .handshake [.handshakeIncomplete] false)
  | .count 0 => some (.answered .handshake [.handshakeIncomplete] false)
  | .count _ => none
  | .err => some (.answered .handshake [.transportError] true)

/-- The position after the poll-request write with this outcome (41_sequencer.md R94). -/
def pollOwes : WriteResult → Option TracePos
  | .count 1 => some (.answered .pollRequest [] false)
  | .count 0 => some (.answered .pollRequest [.pollRequestFailed] false)
  | .count _ => none
  | .err => some (.answered .pollRequest [.transportError, .pollRequestFailed] true)

/-- The position after the read with this outcome (41_sequencer.md R96). -/
def readOwes : ReadResult → Option TracePos
  | .bytes bs =>
    if bs.length = 6 then some (.answered .read [] false)
    else if bs.length < 6 then some (.answered .read [.frameIncomplete] false)
    else none
  | .err => some (.answered .read [.transportError] true)

/-- Kind and channel of sink beat `k` (20_memory.md R42). -/
def beatLabel (k : Fin 8) : SinkKind × BitVec 3 :=
  match k with
  | 0 => (.axis, 0)
  | 1 => (.axis, 1)
  | 2 => (.axis, 2)
  | 3 => (.axis, 3)
  | 4 => (.axis, 4)
  | 5 => (.button, 5)
  | 6 => (.button, 6)
  | 7 => (.sync, 7)

/-- The largest value a channel may carry (20_memory.md R42, R43). -/
def channelLimit (chan : BitVec 3) : Nat :=
  if chan = 0 ∨ chan = 1 then 255
  else if chan = 2 ∨ chan = 3 ∨ chan = 4 then 1023
  else if chan = 5 ∨ chan = 6 then 1
  else 0

/-- A sink event's value is in its channel's range. -/
def sinkInRange : Event → Bool
  | .sink _ chan value => value.toNat ≤ channelLimit chan
  | _ => true

/-- Beat `k` of a Sample goes out. -/
def nextBeat (k : Fin 8) (kind : SinkKind) (chan : BitVec 3) : Option TracePos :=
  if (kind, chan) = beatLabel k then
    if h : k.val + 1 < 8 then some (.reporting ⟨k.val + 1, h⟩) else some .reported
  else none

/-- The order of the block's accesses within a session: where the trace stands after one more event, or none where the event
is out of order (20_memory.md R37, R42; 41_sequencer.md R90, R101, R103). The conditions of a bus event come directly after it,
those its answer raises and no others, and no host command stands between (60_exceptions.md R141, R142, R143). No host command
stands inside a burst of sink events. The first event of a session is the handshake write (41_sequencer.md R91, corner case a).
`Stopped` comes after the long delay or after the conditions of an error. -/
def nextPos (p : TracePos) (e : Event) : Option TracePos :=
  match p, e with
  | .answered b (c :: owed) failed, .cond d => if d = c then some (.answered b owed failed) else none
  | .answered _ (_ :: _) _, _ => none
  | .reporting k, .sink kind chan _ => nextBeat k kind chan
  | .reporting _, _ => none
  | .stopped, .hostStart => some .begun
  | q, .hostStart => some q
  | q, .hostStop => some q
  | .begun, .busWrite [0x40, 0x00] r => handshakeOwes r
  | .rested, .busWrite [0x40, 0x00] r => handshakeOwes r
  | .rested, .delay .settleCmd => some .cmdSettled
  | .rested, .stopped => some .stopped
  | .answered .handshake [] _, .delay .settleCmd => some .cmdSettled
  | .cmdSettled, .busWrite [0x00] r => pollOwes r
  | .answered .pollRequest [] _, .delay .settleData => some .dataSettled
  | .dataSettled, .busRead 6 r => readOwes r
  | .answered .read [] _, .sink kind chan _ => nextBeat 0 kind chan
  | .answered .read [] _, .delay .rest => some .rested
  | .reported, .delay .rest => some .rested
  | .answered _ [] true, .stopped => some .stopped
  | _, _ => none

/-- Where a trace stands, from position `p`; none when some event of it is out of order. -/
def tracePos (p : TracePos) : List Event → Option TracePos
  | [] => some p
  | e :: es => match nextPos p e with
    | some q => tracePos q es
    | none => none

/-- The positions a phase can stand at. At no phase is a condition still owed. -/
def posFitsPhase : Phase → TracePos → Bool
  | .idle, p => p = .stopped
  | .hs, p => p = .begun || p = .rested
  | .inc, p => p = .rested || p = .answered .handshake [] false || p = .answered .handshake [] true
  | .dlyCmd, p => p = .rested || p = .answered .handshake [] false || p = .answered .handshake [] true
  | .poll, p => p = .cmdSettled
  | .dlyData, p => p = .answered .pollRequest [] false || p = .answered .pollRequest [] true
  | .rd6, p => p = .dataSettled
  | .decrpt, p => p = .answered .read [] false || p = .answered .read [] true
  | .dlyRest, p => p = .answered .read [] false || p = .answered .read [] true || p = .reported
  | .chk, p => p = .rested

/-- The item is a reset. -/
def isReset : Item → Bool
  | .reset _ => true
  | _ => false

/-- The trace is in order and stands where the step register says, a session of which nothing is done has its counter at 0, and
the scenario holds no reset (a reset records no event, so a trace across one can break off anywhere). -/
def State.InOrder (s : State) : Prop :=
  s.script.any isReset = false ∧ (s.phase = .idle ↔ s.run = false) ∧
    ∃ p, tracePos .stopped s.trace = some p ∧ posFitsPhase s.phase p = true ∧ (p = .begun → s.cycleCounter = 0)

/-- The trace is quiet outside sessions, and a session that runs was started. -/
def State.Quiet (s : State) : Prop :=
  (s.phase = .idle ↔ s.run = false) ∧ (s.run = true → sessionOpen false s.trace = true) ∧
    quietTrace false s.trace = true

/-- A sequencer waiting for an answer: not stopped, not faulted, without a step (20_memory.md R39,
70_reset_and_hazards.md R171). -/
def State.stuck (s : State) : Prop := s.run = true ∧ issuesBusOp s = true ∧ s.script = []

/-- `k` steps, stopping at the first refusal. -/
def runSteps : Nat → State → Host.Outcome State Fault Refusal
  | 0, s => .next s
  | k + 1, s => match step s with
    | .next t => runSteps k t
    | .fault r => .fault r
    | .refused r => .refused r

/-- The step is the sequencer's, or there is none: the head of the scenario is no host command, no reset and no probe. -/
def sequencerTurn (s : State) : Bool :=
  match s.script.head? with
  | some (.reset _) => false
  | some .start => false
  | some .stop => false
  | some (.probeByte _) => false
  | some (.probeFrame _ _) => false
  | _ => true

/-- The item is a Transport answer. -/
def isAnswer : Item → Bool
  | .w2 _ => true
  | .w1 _ => true
  | .r6 _ => true
  | _ => false

/-- The conditions a handshake write's answer raises (41_sequencer.md R91). -/
def handshakeConds : WriteAnswer 2 → List Event
  | .count k => if k.val < 2 then [.cond .handshakeIncomplete] else []
  | .err => [.cond .transportError]

/-- The conditions a poll-request write's answer raises (41_sequencer.md R94). -/
def pollConds : WriteAnswer 1 → List Event
  | .count k => if k.val = 0 then [.cond .pollRequestFailed] else []
  | .err => [.cond .transportError, .cond .pollRequestFailed]

/-- The conditions a read's answer raises (41_sequencer.md R96). -/
def readConds : ReadAnswer → List Event
  | .bytes bs => if bs.val.length < 6 then [.cond .frameIncomplete] else []
  | .err => [.cond .transportError]

/-- FRAME after a read with this answer (41_sequencer.md R96). -/
def frameAfterRead (f : Frame) : ReadAnswer → Frame
  | .bytes bs => loadFrame f bs.val
  | .err => f

/-- The read delivered fewer than six bytes, or none because of an error. -/
def shortOrFailed : ReadAnswer → Bool
  | .bytes bs => bs.val.length < 6
  | .err => true

/-- RXCOUNT after a read with this answer (41_sequencer.md R96). -/
def rxCountAfterRead : ReadAnswer → BitVec 3
  | .bytes bs => BitVec.ofNat 3 bs.val.length
  | .err => 0

/-- The STATUS bits that the conditions among some events set (10_state.md R18). -/
def raisedMask : List Event → BitVec 4
  | [] => 0
  | .cond c :: es => statusMask c ||| raisedMask es
  | _ :: es => raisedMask es

/-- The events of one cycle in which every bus operation succeeds and the read delivers `f`; `due` says whether its cadence test
passes (41_sequencer.md R90, R91). -/
def okCycleEvents (due : Bool) (f : Frame) : List Event :=
  (if due then [.busWrite [0x40, 0x00] (.count 2)] else []) ++
    [.delay .settleCmd, .busWrite [0x00] (.count 1), .delay .settleData,
      .busRead 6 (.bytes [f.b0, f.b1, f.b2, f.b3, f.b4, f.b5])] ++
    sampleEvents (decodeFrame f) ++ [.delay .rest]

/-- How many handshake writes a trace holds, whatever their answers (41_sequencer.md R102). -/
def handshakeWrites : List Event → Nat
  | [] => 0
  | .busWrite [0x40, 0x00] _ :: es => handshakeWrites es + 1
  | _ :: es => handshakeWrites es

/-- One answer for each of a cycle's bus operations. -/
structure CycleAnswers where
  hs : WriteAnswer 2
  poll : WriteAnswer 1
  read : ReadAnswer
deriving DecidableEq, Repr

/-- The scenario holds the answer the sequencer's next step asks for, and nothing else. -/
def offerAnswer (a : CycleAnswers) (s : State) : State :=
  { s with script := match s.phase with
      | .hs => if handshakeDue s then [.w2 a.hs] else []
      | .poll => [.w1 a.poll]
      | .rd6 => [.r6 a.read]
      | _ => [] }

/-- `k` steps of a sequencer whose every request is answered (41_sequencer.md R104). -/
def answeredRun (a : CycleAnswers) : Nat → State → Host.Outcome State Fault Refusal
  | 0, s => .next s
  | k + 1, s => match step (offerAnswer a s) with
    | .next t => answeredRun a k t
    | .fault r => .fault r
    | .refused r => .refused r

/-- A scenario item without its data: what kind of item it is, and whether an answer is an error. -/
inductive ItemShape where
  | reset | start | stop | wait | advance | probe
  | w2 (failed : Bool)
  | w1 (failed : Bool)
  | r6 (failed : Bool)
deriving DecidableEq, Repr

/-- The shape of an item: the bytes of a read, the count of a write, the draw of a reset and the operand of a probe are taken
out. -/
def itemShape : Item → ItemShape
  | .reset _ => .reset
  | .start => .start
  | .stop => .stop
  | .wait => .wait
  | .advance => .advance
  | .w2 a => .w2 (decide (a = .err))
  | .w1 a => .w1 (decide (a = .err))
  | .r6 a => .r6 (decide (a = .err))
  | .probeByte _ => .probe
  | .probeFrame _ _ => .probe

/-- Two states agree on all that steers the sequencer: the parameters, RUN, STOP_REQ, PHASE, CYCLE_COUNTER and the shapes of the
items to come. They may differ in FRAME, RXCOUNT, RXERR, STATUS, the trace and in every byte and count the Transport delivers
(20_memory.md R41, 41_sequencer.md R101). -/
def sameControl (s t : State) : Prop :=
  s.cfg = t.cfg ∧ s.run = t.run ∧ s.stopReq = t.stopReq ∧ s.phase = t.phase ∧ s.cycleCounter = t.cycleCounter ∧
    s.script.map itemShape = t.script.map itemShape

/-- A clock edge without reset and without a command. -/
def quietEdge (inp : PortsIn) : Bool := !inp.rst && !inp.cmdStart && !inp.cmdStop

/-- The delay a phase takes and the phase after it (41_sequencer.md R93, R95, R98). -/
def phaseDelay : Phase → Option (DelayName × Phase)
  | .dlyCmd => some (.settleCmd, .poll)
  | .dlyData => some (.settleData, .rd6)
  | .dlyRest => some (.rest, .chk)
  | _ => none

end Sys2Proof.Machine
end

