-- ==== Sys2Proof/Certificates/Slice0/Obligations.lean ====
section
/-! DEFINITION. Obligations: the statements for the provers, from the numbered rules of spec/. -/

open Sys2Proof Sys2Proof.Machine

/-! ## Encoding -/

/-- Decoding the word of any operation, with any operand, gives the operation back, and the word is well formed. -/
def Obligations.DecodeEncodeGivesInstr : Prop :=
  ∀ i : Instr, i.wellFormed = true → decode (encode i) = .ok i ∧ (encode i).wellFormed = true

/-- Every well-formed word stands for an operation, and encoding that operation gives the word back: one meaning a word. -/
def Obligations.EncodeDecodeGivesWord : Prop :=
  ∀ w : OpWord, w.wellFormed = true → ∃ i, decode w = .ok i ∧ encode i = w

/-- The reserved codes 10 to 15 are rejected by name and none is the code of a phase; a clocked block that finds one lands in
IDLE with RUN and STOP_REQ cleared and everything else as it was; on a code that is in use it performs that step. -/
def Obligations.ReservedPhaseCodeLandsIdle : Prop :=
  (∀ (code : BitVec 4) (s : State), 10 ≤ code.toNat →
    decode (.ph code) = .error (.reservedPhase code) ∧ (∀ p : Phase, p.code ≠ code) ∧
      phaseFound code s = { s with run := false, stopReq := false, phase := .idle }) ∧
  (∀ (p : Phase) (s : State), phaseFound p.code s = { s with phase := p })

/-- A few words written out from spec/opcode_table.json, one of each format and more, and the operations they stand for. That the
CMD words 0b00 and 0b11 are rejected by name, as no operation and as two, is the model's reading (log 11). -/
def Obligations.TableWordsDecode : Prop :=
  decode (.ph 0b0000) = .ok .idle ∧ decode (.ph 0b0001) = .ok .hs ∧ decode (.ph 0b0111) = .ok .decrpt ∧
  decode (.cmd 0b01) = .ok .start ∧ decode (.cmd 0b10) = .ok .stop ∧
  decode (.cmd 0b00) = .error .noCommand ∧ decode (.cmd 0b11) = .error .twoCommands ∧
  decode (.byte 0x14) = .ok (.deobf 0x14) ∧
  decode (.fr48 .decode 0x0A9A0A0A7214) =
    .ok (.decode { b0 := 0x14, b1 := 0x72, b2 := 0x0A, b3 := 0x0A, b4 := 0x9A, b5 := 0x0A })

/-- Raw byte `k` stands at bits `8k+7 : 8k` of the 48-bit frame, bit for bit, in packing and in unpacking. -/
def Obligations.FrameWordBytePositions : Prop :=
  (∀ (f : Frame) (k : Fin 6) (i : Nat), i < 8 → f.toBits.getLsbD (8 * k.val + i) = (frameByte f k).getLsbD i) ∧
  (∀ (w : BitVec 48) (k : Fin 6) (i : Nat), i < 8 →
    (frameByte (Frame.ofBits w) k).getLsbD i = w.getLsbD (8 * k.val + i))

/-! ## The Frame Decoder -/

/-- `DEOBF` on every byte: exclusive or with 0x17, then 0x17 added modulo 256, shown on the decoder's output; nothing else
changes. Its fixed points are the bytes with `b & 0x17 = 0x17`. -/
def Obligations.DeobfResult : Prop :=
  ∀ (s : State) (b : Byte), ∃ r : Byte, exec (.deobf b) s = .next { s with decoderOut := .byte r } ∧
    r.toNat = ((b.toNat ^^^ 0x17) + 0x17) % 256 ∧ (r = b ↔ b &&& 0x17 = 0x17)

/-- `DEOBF6`: each of the six bytes through the same transform, independently; nothing else changes. -/
def Obligations.Deobf6Result : Prop :=
  ∀ (s : State) (f : Frame), ∃ d : DFrame, exec (.deobf6 f) s = .next { s with decoderOut := .frame d } ∧
    ∀ k : Fin 6, (frameByte d k).toNat = (((frameByte f k).toNat ^^^ 0x17) + 0x17) % 256

/-- The sticks are bytes 0 and 1 of the de-obfuscated frame; nothing else changes. -/
def Obligations.StickResults : Prop :=
  ∀ (s : State) (d : DFrame),
    exec (.stickX d) s = .next { s with decoderOut := .stick d.b0 } ∧
    exec (.stickY d) s = .next { s with decoderOut := .stick d.b1 }

/-- The three accelerations as numbers: the high byte times four plus the two low bits of byte 5 at 3:2, 5:4 and 7:6;
nothing else changes. -/
def Obligations.AccelResults : Prop :=
  ∀ (s : State) (d : DFrame), ∃ x y z : BitVec 10,
    exec (.accelX d) s = .next { s with decoderOut := .accel x } ∧
    exec (.accelY d) s = .next { s with decoderOut := .accel y } ∧
    exec (.accelZ d) s = .next { s with decoderOut := .accel z } ∧
    x.toNat = d.b2.toNat * 4 + d.b5.toNat / 4 % 4 ∧
    y.toNat = d.b3.toNat * 4 + d.b5.toNat / 16 % 4 ∧
    z.toNat = d.b4.toNat * 4 + d.b5.toNat / 64 % 4

/-- The buttons are bits 1 and 0 of byte 5, not inverted; nothing else changes. -/
def Obligations.ButtonResults : Prop :=
  ∀ (s : State) (d : DFrame), ∃ c z : BitVec 1,
    exec (.buttonC d) s = .next { s with decoderOut := .button c } ∧
    exec (.buttonZ d) s = .next { s with decoderOut := .button z } ∧
    c.toNat = d.b5.toNat / 2 % 2 ∧ z.toNat = d.b5.toNat % 2

/-- `DECODE` of six raw bytes: the seven fields as numbers, each from the de-obfuscated bytes; nothing else changes. -/
def Obligations.DecodeResult : Prop :=
  ∀ (s : State) (f : Frame), ∃ v : Sample, exec (.decode f) s = .next { s with decoderOut := .sample v } ∧
    let d := fun k : Fin 6 => (((frameByte f k).toNat ^^^ 0x17) + 0x17) % 256
    v.stickX.toNat = d 0 ∧ v.stickY.toNat = d 1 ∧
    v.accelX.toNat = d 2 * 4 + d 5 / 4 % 4 ∧ v.accelY.toNat = d 3 * 4 + d 5 / 16 % 4 ∧
    v.accelZ.toNat = d 4 * 4 + d 5 / 64 % 4 ∧
    v.buttonC.toNat = d 5 / 2 % 2 ∧ v.buttonZ.toNat = d 5 % 2

/-- `OBF` undoes `DEOBF` and `DEOBF` undoes `OBF`, and bit 0 passes through. -/
def Obligations.DeobfInverse : Prop :=
  ∀ b : Byte, obf (deobf b) = b ∧ deobf (obf b) = b ∧ (deobf b).getLsbD 0 = b.getLsbD 0

/-- The Frame Decoder is a bijection between the `2 ^ 48` raw frames and the `2 ^ 48` Samples. -/
def Obligations.DecodeBijective : Prop := Function.Bijective decodeFrame

/-! ## Conditions -/

/-- A raise does two things: the `Cond` event, and the STATUS bit with the number of the condition's code (codes 0 to 3;
4 and 5 have none). Nothing else changes. -/
def Obligations.RaiseRecordsCondition : Prop :=
  (condCode .transportError = 0 ∧ condCode .handshakeIncomplete = 1 ∧ condCode .pollRequestFailed = 2 ∧
    condCode .frameIncomplete = 3 ∧ condCode .workerSpawnFailed = 4 ∧ condCode .invalidBusAddress = 5) ∧
  ∀ (c : Condition) (s : State), ∃ st : BitVec 4,
    raiseCond c s = { s with status := st, trace := s.trace ++ [.cond c] } ∧
    ∀ j, j < 4 → st.getLsbD j = (s.status.getLsbD j || decide (j = (condCode c).toNat))

/-- A fatal error: with `TERR_FATAL`, an `Err` answer in HS, POLL or RD6 ends the session in that very step, after the
step's raises: RUN, STOP_REQ and PHASE to 0 and `Stopped` recorded once; the counter and FRAME keep their values. Without
`TERR_FATAL` no `Err` ends it. -/
def Obligations.FatalErrorAborts : Prop :=
  ∀ (s : State) (rest : List Item),
    (s.cfg.terrFatal = true →
      (s.cycleCounter % 10 = 0 → s.script = .w2 .err :: rest → exec .hs s = .next { s with
        run := false, stopReq := false, phase := .idle, script := rest, status := s.status ||| 0b0001,
        trace := s.trace ++ [.busWrite [0x40, 0x00] .err, .cond .transportError, .stopped] }) ∧
      (s.script = .w1 .err :: rest → exec .poll s = .next { s with
        run := false, stopReq := false, phase := .idle, script := rest, status := s.status ||| 0b0101,
        trace := s.trace ++ [.busWrite [0x00] .err, .cond .transportError, .cond .pollRequestFailed, .stopped] }) ∧
      (s.script = .r6 .err :: rest → exec .rd6 s = .next { s with
        run := false, stopReq := false, phase := .idle, script := rest, status := s.status ||| 0b0001,
        rxErr := true, rxCount := 0,
        trace := s.trace ++ [.busRead 6 .err, .cond .transportError, .stopped] })) ∧
    (s.cfg.terrFatal = false → ∀ t,
      (s.cycleCounter % 10 = 0 → s.script = .w2 .err :: rest → exec .hs s = .next t →
        t.run = s.run ∧ t.stopReq = s.stopReq ∧ t.phase = .inc) ∧
      (s.script = .w1 .err :: rest → exec .poll s = .next t →
        t.run = s.run ∧ t.stopReq = s.stopReq ∧ t.phase = .dlyData) ∧
      (s.script = .r6 .err :: rest → exec .rd6 s = .next t →
        t.run = s.run ∧ t.stopReq = s.stopReq ∧ t.phase = .decrpt))

/-! ## The phase operations -/

/-- `HS` on every counter value and every answer: no request when the counter is no multiple of ten; else the two-byte write,
HandshakeIncomplete after a short count, TransportError alone after an error, and the next step, or the abort when an error
is fatal. Everything not named stays. -/
def Obligations.HandshakePhaseResult : Prop :=
  ∀ (s : State) (rest : List Item),
    (s.cycleCounter % 10 ≠ 0 → exec .hs s = .next { s with phase := .inc }) ∧
    (s.cycleCounter % 10 = 0 →
      (∀ k : Fin 3, s.script = .w2 (.count k) :: rest →
        (k.val = 2 → exec .hs s = .next { s with
          phase := .inc, script := rest, trace := s.trace ++ [.busWrite [0x40, 0x00] (.count 2)] }) ∧
        (k.val < 2 → exec .hs s = .next { s with
          phase := .inc, script := rest, status := s.status ||| 0b0010,
          trace := s.trace ++ [.busWrite [0x40, 0x00] (.count k.val), .cond .handshakeIncomplete] })) ∧
      (s.script = .w2 .err :: rest →
        (s.cfg.terrFatal = false → exec .hs s = .next { s with
          phase := .inc, script := rest, status := s.status ||| 0b0001,
          trace := s.trace ++ [.busWrite [0x40, 0x00] .err, .cond .transportError] }) ∧
        (s.cfg.terrFatal = true → exec .hs s = .next { s with
          run := false, stopReq := false, phase := .idle, script := rest, status := s.status ||| 0b0001,
          trace := s.trace ++ [.busWrite [0x40, 0x00] .err, .cond .transportError, .stopped] })))

/-- `INC`: the counter plus one modulo `2 ^ CW`, and the next step; everything else stays. -/
def Obligations.IncrementPhaseResult : Prop :=
  ∀ s : State, exec .inc s = .next { s with
    cycleCounter := (s.cycleCounter + 1) % 2 ^ s.cfg.cw, phase := .dlyCmd }

/-- The three delay phases: one `Delay` event and the next step; a pending stop changes nothing; everything else stays. -/
def Obligations.DelayPhaseResults : Prop :=
  ∀ s : State,
    exec .dlyCmd s = .next { s with phase := .poll, trace := s.trace ++ [.delay .settleCmd] } ∧
    exec .dlyData s = .next { s with phase := .rd6, trace := s.trace ++ [.delay .settleData] } ∧
    exec .dlyRest s = .next { s with phase := .chk, trace := s.trace ++ [.delay .rest] }

/-- `POLL` on every answer: the one-byte write; PollRequestFailed when the byte did not go out, after TransportError when
there was an error; the next step, or the abort when an error is fatal. Everything not named stays. -/
def Obligations.PollPhaseResult : Prop :=
  ∀ (s : State) (rest : List Item),
    (∀ k : Fin 2, s.script = .w1 (.count k) :: rest →
      (k.val = 1 → exec .poll s = .next { s with
        phase := .dlyData, script := rest, trace := s.trace ++ [.busWrite [0x00] (.count 1)] }) ∧
      (k.val = 0 → exec .poll s = .next { s with
        phase := .dlyData, script := rest, status := s.status ||| 0b0100,
        trace := s.trace ++ [.busWrite [0x00] (.count 0), .cond .pollRequestFailed] })) ∧
    (s.script = .w1 .err :: rest →
      (s.cfg.terrFatal = false → exec .poll s = .next { s with
        phase := .dlyData, script := rest, status := s.status ||| 0b0101,
        trace := s.trace ++ [.busWrite [0x00] .err, .cond .transportError, .cond .pollRequestFailed] }) ∧
      (s.cfg.terrFatal = true → exec .poll s = .next { s with
        run := false, stopReq := false, phase := .idle, script := rest, status := s.status ||| 0b0101,
        trace := s.trace ++ [.busWrite [0x00] .err, .cond .transportError, .cond .pollRequestFailed, .stopped] }))

/-- `RD6` on every answer. `m` bytes go to the first `m` registers of FRAME and the others keep their bytes; RXERR and
RXCOUNT say how the read ended; FrameIncomplete after fewer than six; TransportError alone after an error, FRAME unchanged;
the next step, or the abort when an error is fatal. Everything not named stays. -/
def Obligations.ReadPhaseResult : Prop :=
  ∀ (s : State) (rest : List Item),
    (∀ bs : RxBytes, s.script = .r6 (.bytes bs) :: rest → ∃ g : Frame,
      (∀ k : Fin 6, frameByte g k = if h : k.val < bs.val.length then bs.val[k.val] else frameByte s.frame k) ∧
      (bs.val.length = 6 → exec .rd6 s = .next { s with
        phase := .decrpt, script := rest, frame := g, rxErr := false, rxCount := 6,
        trace := s.trace ++ [.busRead 6 (.bytes bs.val)] }) ∧
      (bs.val.length < 6 → exec .rd6 s = .next { s with
        phase := .decrpt, script := rest, frame := g, rxErr := false, rxCount := BitVec.ofNat 3 bs.val.length,
        status := s.status ||| 0b1000,
        trace := s.trace ++ [.busRead 6 (.bytes bs.val), .cond .frameIncomplete] })) ∧
    (s.script = .r6 .err :: rest →
      (s.cfg.terrFatal = false → exec .rd6 s = .next { s with
        phase := .decrpt, script := rest, rxErr := true, rxCount := 0, status := s.status ||| 0b0001,
        trace := s.trace ++ [.busRead 6 .err, .cond .transportError] }) ∧
      (s.cfg.terrFatal = true → exec .rd6 s = .next { s with
        run := false, stopReq := false, phase := .idle, script := rest, rxErr := true, rxCount := 0,
        status := s.status ||| 0b0001,
        trace := s.trace ++ [.busRead 6 .err, .cond .transportError, .stopped] }))

/-- `DECRPT`: under `DropSample` a short or failed read sends nothing; otherwise the eight sink events of the decoded FRAME go
out in order. Only PHASE changes besides the trace. -/
def Obligations.ReportPhaseResult : Prop :=
  ∀ s : State,
    (s.cfg.partialPolicy = .dropSample ∧ (s.rxErr = true ∨ s.rxCount.toNat < 6) →
      exec .decrpt s = .next { s with phase := .dlyRest }) ∧
    (¬ (s.cfg.partialPolicy = .dropSample ∧ (s.rxErr = true ∨ s.rxCount.toNat < 6)) →
      exec .decrpt s = .next { s with phase := .dlyRest, trace := s.trace ++
        [ .sink .axis 0 ((decodeFrame s.frame).stickX.setWidth 10), .sink .axis 1 ((decodeFrame s.frame).stickY.setWidth 10),
          .sink .axis 2 (decodeFrame s.frame).accelX, .sink .axis 3 (decodeFrame s.frame).accelY,
          .sink .axis 4 (decodeFrame s.frame).accelZ, .sink .button 5 ((decodeFrame s.frame).buttonC.setWidth 10),
          .sink .button 6 ((decodeFrame s.frame).buttonZ.setWidth 10), .sink .sync 7 0 ] })

/-- `CHK`: a pending stop ends the session; without one the next cycle begins. Everything not named stays. -/
def Obligations.CheckPhaseResult : Prop :=
  ∀ s : State,
    (s.stopReq = true → exec .chk s = .next { s with
      run := false, stopReq := false, phase := .idle, trace := s.trace ++ [.stopped] }) ∧
    (s.stopReq = false → exec .chk s = .next { s with phase := .hs })

/-- `IDLE`: nothing changes and nothing is recorded; and a step of a state with PHASE at IDLE and no command waiting leaves it
as it is. -/
def Obligations.IdlePhaseResult : Prop :=
  ∀ s : State, exec .idle s = .next s ∧ (s.phase = .idle → s.script = [] → step s = .next s)

/-! ## The host's commands -/

/-- `START`: from Stopped a session begins; while Running nothing changes but the trace, even with a stop pending. FRAME,
RXCOUNT and RXERR are never touched. -/
def Obligations.StartCommandResult : Prop :=
  ∀ s : State,
    (s.run = false → exec .start s = .next { s with
      run := true, stopReq := false, cycleCounter := 0, status := 0, phase := .hs, trace := s.trace ++ [.hostStart] }) ∧
    (s.run = true → exec .start s = .next { s with trace := s.trace ++ [.hostStart] })

/-- `STOP`: while Running the cancellation signal is set; while Stopped nothing changes but the trace. -/
def Obligations.StopCommandResult : Prop :=
  ∀ s : State,
    (s.run = true → exec .stop s = .next { s with stopReq := true, trace := s.trace ++ [.hostStop] }) ∧
    (s.run = false → exec .stop s = .next { s with trace := s.trace ++ [.hostStop] })

/-- What a clock edge does with the host's commands, both of them or one. Both are STOP and then START, by the word's decoding, as
scenario items and at the edge. At an edge that finds the sequencer idle, a START begins a session, and a STOP is recorded only.
At an edge that finds a session running, a START is recorded and lost, even where the session ends at that edge; a STOP makes a
stop pending; and the rest of the edge is that of an edge without commands. That the commands stand before the sequencer's move of
the same edge is the model's choice (log 8). -/
def Obligations.BothCommandsInOneClock : Prop :=
  cmdCommands 0b11 = [.stop, .start] ∧ commandItems 0b11 = [.stop, .start] ∧
  ∀ (f : ClockFreq) (inp : PortsIn) (s : State), inp.rst = false →
    let told := (if inp.cmdStop then [Event.hostStop] else []) ++ (if inp.cmdStart then [Event.hostStart] else [])
    (s.phase = .idle → s.run = false →
      (inp.cmdStart = true → clockEdge f inp s = { s with
        run := true, stopReq := false, cycleCounter := 0, status := 0, phase := .hs, trace := s.trace ++ told,
        condPulses := s.condPulses.tail }) ∧
      (inp.cmdStart = false → clockEdge f inp s = { s with
        trace := s.trace ++ told, condPulses := s.condPulses.tail })) ∧
    (s.phase ≠ .idle → s.run = true →
      clockEdge f inp s = clockEdge f { inp with cmdStart := false, cmdStop := false }
        { s with stopReq := s.stopReq || inp.cmdStop, trace := s.trace ++ told })

/-! ## The step -/

/-- A step runs the operation that PHASE selects: with an empty scenario; with an answer at its head that the phase's bus
operation asks for; with an answer at its head and a phase that issues no request; and with the item `advance` at its head and
such a phase, the item taken with the step (log 2), so that whatever stands behind it comes directly after this one step. -/
def Obligations.StepRunsSelectedOperation : Prop :=
  ∀ (s : State) (i : Instr), decode (.ph s.phase.code) = .ok i →
    (s.script = [] → step s = exec i s) ∧
    (∀ it rest, s.script = it :: rest → isAnswer it = true → s.phase ≠ .idle →
      (issuesBusOp s = true → answersPhase s.phase it = true) → step s = exec i s) ∧
    (∀ rest, s.script = .advance :: rest → s.phase ≠ .idle → issuesBusOp s = false →
      step s = exec i { s with script := rest })

/-- A step runs a host command, or a probed decoder function, that stands at the head of the scenario, on the state with that
item taken. -/
def Obligations.StepRunsScenarioHead : Prop :=
  ∀ (s : State) (rest : List Item),
    (s.script = .start :: rest → decode (.cmd 0b01) = .ok .start ∧ step s = exec .start { s with script := rest }) ∧
    (s.script = .stop :: rest → decode (.cmd 0b10) = .ok .stop ∧ step s = exec .stop { s with script := rest }) ∧
    (∀ b i, s.script = .probeByte b :: rest → decode (.byte b) = .ok i → step s = exec i { s with script := rest }) ∧
    (∀ fn w i, s.script = .probeFrame fn w :: rest → decode (.fr48 fn w) = .ok i →
      step s = exec i { s with script := rest })

/-- The reset step, from every state: each element of the block at its reset value and FRAME at whatever the draw is; no
event; the rest of the scenario, the trace and the parameters stay. -/
def Obligations.ResetStepResult : Prop :=
  ∀ (s : State) (draw : Frame) (rest : List Item), s.script = .reset draw :: rest →
    step s = .next { s with
      script := rest, run := false, stopReq := false, phase := .idle, cycleCounter := 0, frame := draw, rxCount := 0,
      rxErr := false, status := 0, timer := 0, sinkBeat := 0, condPulses := [] }

/-- `WAIT`: passed over when the sequencer is idle; else the sequencer steps, and the wait stays, unless that step would issue
a request, which makes the scenario malformed. The model's own item `advance` (log 2) is passed over and refused alike. -/
def Obligations.WaitItemStep : Prop :=
  ∀ (s : State) (rest : List Item),
    (s.script = .wait :: rest →
      (s.phase = .idle → step s = .next { s with script := rest }) ∧
      (s.phase ≠ .idle → issuesBusOp s = false → step s = exec s.phase.instr s) ∧
      (issuesBusOp s = true → step s = .refused (.malformedScenario .waitAtBusOperation))) ∧
    (s.script = .advance :: rest →
      (s.phase = .idle → step s = .next { s with script := rest }) ∧
      (issuesBusOp s = true → step s = .refused (.malformedScenario .advanceAtBusOperation)))

/-- A malformed scenario is refused by name: an answer while PHASE is IDLE, or an answer of the wrong shape. -/
def Obligations.MalformedScenarioRefused : Prop :=
  ∀ (s : State) (it : Item) (rest : List Item), s.script = it :: rest → isAnswer it = true →
    (s.phase = .idle → step s = .refused (.malformedScenario .answerWhileIdle)) ∧
    (issuesBusOp s = true → answersPhase s.phase it = false →
      step s = .refused (.malformedScenario .wrongAnswerShape))

/-- A sequencer whose request is not answered has no step: the state stays as it is, for any number of steps, a stop pending or
not, and it is not a stopped state. -/
def Obligations.UnansweredRequestStaysStuck : Prop :=
  ∀ (s : State), s.stuck → (∀ k, runSteps k s = .next s) ∧ (s.phase = .hs ∨ s.phase = .poll ∨ s.phase = .rd6) ∧
    s.run = true

/-- The step after a table word is placed runs exactly that word's operation, on the state named here: for a phase operation PHASE
at that phase, RUN at 1 unless it is IDLE and an answer of full success in the scenario; for a command or a decoder function the
state it was placed in, with no item left. A placed phase operation other than IDLE never only waits: PHASE moves on. -/
def Obligations.PlacedWordRuns : Prop :=
  ∀ (s : State) (nbits w : Nat) (i : Instr), decodeTableWord nbits w = some i →
    (∀ p : Phase, i = p.instr →
      step (s.withFetchWord nbits w) =
        exec i { s with phase := p, run := decide (p ≠ .idle), script := successAnswer p } ∧
      (p ≠ .idle → ∃ t, step (s.withFetchWord nbits w) = .next t ∧ t.phase ≠ p)) ∧
    ((∀ p : Phase, i ≠ p.instr) → step (s.withFetchWord nbits w) = exec i { s with script := [] })

/-- No operation stops the machine: every one, on every operand, in every state, has a next state. In IDLE, and with a request
unanswered (the head of the scenario is not its answer), where the spec gives the sequencer no step, that next state is the state
itself: a wait and no effect (log 14). -/
def Obligations.EveryOperationCompletes : Prop :=
  (∀ (i : Instr) (s : State), ∃ t, exec i s = .next t) ∧
  ∀ s : State,
    exec .idle s = .next s ∧
    (s.cycleCounter % 10 = 0 → (∀ a, s.script.head? ≠ some (.w2 a)) → exec .hs s = .next s) ∧
    ((∀ a, s.script.head? ≠ some (.w1 a)) → exec .poll s = .next s) ∧
    ((∀ a, s.script.head? ≠ some (.r6 a)) → exec .rd6 s = .next s)

/-! ## The whole machine -/

/-- PHASE changes only along the table of control transfers, and by reset. -/
def Obligations.PhaseTransfersOnlyByTable : Prop :=
  ∀ s t : State, (s.phase = .idle ↔ s.run = false) → step s = .next t →
    t.phase = s.phase ∨
    (∃ draw, s.script.head? = some (.reset draw) ∧ t.phase = .idle) ∨
    (s.phase = .idle ∧ t.phase = .hs ∧ s.script.head? = some .start ∧ s.run = false) ∨
    (s.phase = .hs ∧ t.phase = .inc) ∨ (s.phase = .inc ∧ t.phase = .dlyCmd) ∨
    (s.phase = .dlyCmd ∧ t.phase = .poll) ∨ (s.phase = .poll ∧ t.phase = .dlyData) ∨
    (s.phase = .dlyData ∧ t.phase = .rd6) ∨ (s.phase = .rd6 ∧ t.phase = .decrpt) ∨
    (s.phase = .decrpt ∧ t.phase = .dlyRest) ∨ (s.phase = .dlyRest ∧ t.phase = .chk) ∨
    (s.phase = .chk ∧ s.stopReq = false ∧ t.phase = .hs) ∨
    (s.phase = .chk ∧ s.stopReq = true ∧ t.phase = .idle) ∨
    (s.cfg.terrFatal = true ∧ t.phase = .idle ∧
      ((s.phase = .hs ∧ s.script.head? = some (.w2 .err)) ∨ (s.phase = .poll ∧ s.script.head? = some (.w1 .err)) ∨
        (s.phase = .rd6 ∧ s.script.head? = some (.r6 .err))))

/-- A running session ends only in three ways: by CHK with a stop pending, by a fatal error, by reset; the first two record
`Stopped` last. -/
def Obligations.SessionEndsOnlyThreeWays : Prop :=
  ∀ s t : State, step s = .next t → s.run = true → t.run = false →
    (∃ draw, s.script.head? = some (.reset draw)) ∨
    (s.phase = .chk ∧ s.stopReq = true ∧ t.trace = s.trace ++ [.stopped]) ∨
    (s.cfg.terrFatal = true ∧ t.trace.getLast? = some .stopped ∧
      ((s.phase = .hs ∧ s.script.head? = some (.w2 .err)) ∨ (s.phase = .poll ∧ s.script.head? = some (.w1 .err)) ∨
        (s.phase = .rd6 ∧ s.script.head? = some (.r6 .err))))

/-- Who writes which element, RUN and PHASE among them: the parameters never change and the trace only grows; and besides the reset
event, an element that changes is written by one of its writers, the sequencer's own only in a step that is the sequencer's and no
host command's. FRAME, RXCOUNT and RXERR: an answered RD6. CYCLE_COUNTER: INC and START. STOP_REQ: STOP, START, CHK and a fatal
error. STATUS: START and the three bus operations. RUN: START, CHK and a fatal error. PHASE: START and the phase operations.
A fatal error is an `Err` answer to a request under `TERR_FATAL`. A START writes only while Stopped, and a STOP only while
Running. -/
def Obligations.ElementWriters : Prop :=
  ∀ s t : State, step s = .next t →
    t.cfg = s.cfg ∧ (∃ es, t.trace = s.trace ++ es) ∧
    ((∃ draw, s.script.head? = some (.reset draw)) ∨
      (let begins := s.script.head? = some .start ∧ s.run = false
       let fatal := s.cfg.terrFatal = true ∧ issuesBusOp s = true ∧
         ((s.phase = .hs ∧ s.script.head? = some (.w2 .err)) ∨ (s.phase = .poll ∧ s.script.head? = some (.w1 .err)) ∨
           (s.phase = .rd6 ∧ s.script.head? = some (.r6 .err)))
       (t.frame = s.frame ∧ t.rxCount = s.rxCount ∧ t.rxErr = s.rxErr ∨
          ∃ a, s.phase = .rd6 ∧ s.script.head? = some (.r6 a) ∧ t.frame = frameAfterRead s.frame a) ∧
        (t.cycleCounter = s.cycleCounter ∨ begins ∨ (sequencerTurn s = true ∧ s.phase = .inc)) ∧
        (t.stopReq = s.stopReq ∨ begins ∨ (s.script.head? = some .stop ∧ s.run = true) ∨
          (sequencerTurn s = true ∧ s.phase = .chk) ∨ fatal) ∧
        (t.status = s.status ∨ begins ∨ (sequencerTurn s = true ∧ issuesBusOp s = true)) ∧
        (t.run = s.run ∨ begins ∨ (sequencerTurn s = true ∧ s.phase = .chk) ∨ fatal) ∧
        (t.phase = s.phase ∨ begins ∨ (sequencerTurn s = true ∧ s.phase ≠ .idle))))

/-- STATUS is sticky: a bit once set stays set through every step but the reset event and a START that finds no session. -/
def Obligations.StatusBitsAreSticky : Prop :=
  ∀ (s t : State) (j : Nat), step s = .next t → s.status.getLsbD j = true → t.status.getLsbD j = false →
    (∃ draw, s.script.head? = some (.reset draw)) ∨ (s.script.head? = some .start ∧ s.run = false)

/-- The reset state satisfies the invariant, whatever FRAME comes up as, whatever the parameters and the scenario. -/
def Obligations.ResetStateInvariant : Prop :=
  ∀ (cfg : Config) (draw : Frame) (script : List Item),
    ({ State.reset with cfg := cfg, frame := draw, script := script } : State).Inv

/-- Every step keeps the invariant: PHASE is IDLE exactly when RUN is 0, a pending stop has a session, the counter fits its
width, RXCOUNT is at most six, and 0 after a failed read. -/
def Obligations.StepKeepsInvariant : Prop :=
  ∀ s t : State, s.Inv → step s = .next t → t.Inv

/-- The reset state is in order, for every scenario without a further reset. -/
def Obligations.ResetStateInOrder : Prop :=
  ∀ (cfg : Config) (draw : Frame) (script : List Item), script.any isReset = false →
    ({ State.reset with cfg := cfg, frame := draw, script := script } : State).InOrder

/-- The order of accesses: every step keeps the trace in the total order of the phases (handshake write, poll-request write, read,
the eight sink events in their order, the three delays between them), and keeps the step register standing where the trace says.
The conditions that a bus event's answer raises, and no others, come directly after it, with no host command between; none comes
inside a Sample. A session begins with the handshake write. `Stopped` comes only after a whole cycle or after the conditions of an
error. States whose scenario still holds a reset are not in order and are left out: a reset records no event, so a trace across
one can break off anywhere. -/
def Obligations.StepKeepsAccessOrder : Prop :=
  ∀ s t : State, s.InOrder → step s = .next t → t.InOrder

/-- Quiet after `Stopped`: every step keeps the trace free of bus, sink, delay and condition events between a `Stopped` and the
next start, resets included. The reset state is such a state. -/
def Obligations.StepKeepsQuietAfterStopped : Prop :=
  State.reset.Quiet ∧ ∀ s t : State, s.Quiet → step s = .next t → t.Quiet

/-- No data steers PHASE, RUN, STOP_REQ or CYCLE_COUNTER: two states that agree on these, on the parameters and on the shapes of the
items to come take steps that agree on them again, whatever FRAME, RXCOUNT, RXERR and STATUS hold and whatever bytes and counts
the Transport delivers. Only whether an answer is an error can matter. Nothing is said of the trace: under `DropSample` RXCOUNT
and RXERR do decide whether a Sample is sent. -/
def Obligations.DataNeverSteersControl : Prop :=
  ∀ s t : State, sameControl s t →
    (∀ s', step s = .next s' → ∃ t', step t = .next t' ∧ sameControl s' t') ∧
    (∀ r, step s = .refused r → step t = .refused r)

/-- Every sink event that a step records carries a value in its channel's range. -/
def Obligations.SinkValuesStayInRange : Prop :=
  ∀ s t : State, step s = .next t → s.trace.all sinkInRange = true → t.trace.all sinkInRange = true

/-! ## Cycles -/

/-- One whole cycle, whatever its answers, when errors are not fatal and no host command falls into it: nine steps give exactly the
handshake write if it is due, the delay, the poll-request write, the delay, the read, the Sample unless it is dropped, the long
delay, and `Stopped` if a stop was pending, each bus event followed by its conditions. The state after it is given whole: the
counter up by one, FRAME, RXCOUNT and RXERR as the read left them, the STATUS bits of the cycle's conditions set, RUN and STOP_REQ
cleared if a stop was pending, and nothing else changed. -/
def Obligations.NonFatalCycleTrace : Prop :=
  ∀ (s : State) (a : WriteAnswer 2) (b : WriteAnswer 1) (c : ReadAnswer) (rest : List Item),
    s.phase = .hs → s.cfg.terrFatal = false → rest.all isAnswer = true →
    s.script = (if s.cycleCounter % 10 = 0 then [.w2 a] else []) ++ .w1 b :: .r6 c :: rest →
    let ofHandshake := if s.cycleCounter % 10 = 0 then handshakeConds a else []
    runSteps 9 s = .next { s with
      script := rest
      run := s.run && !s.stopReq
      stopReq := false
      phase := if s.stopReq then .idle else .hs
      cycleCounter := (s.cycleCounter + 1) % 2 ^ s.cfg.cw
      frame := frameAfterRead s.frame c
      rxCount := rxCountAfterRead c
      rxErr := decide (c = .err)
      status := s.status ||| raisedMask (ofHandshake ++ pollConds b ++ readConds c)
      trace := s.trace ++
        (if s.cycleCounter % 10 = 0 then [.busWrite [0x40, 0x00] (writeResult a)] else []) ++ ofHandshake ++
        [.delay .settleCmd, .busWrite [0x00] (writeResult b)] ++ pollConds b ++
        [.delay .settleData, .busRead 6 (readResult c)] ++ readConds c ++
        (if s.cfg.partialPolicy = .dropSample ∧ shortOrFailed c = true then []
          else sampleEvents (decodeFrame (frameAfterRead s.frame c))) ++
        [.delay .rest] ++ (if s.stopReq then [.stopped] else []) }

/-- The cadence over any number of cycles, for every counter width: of `n` successful cycles from counter value `c`, cycle `j`
finds the counter at `(c + j) mod 2^CW` and makes a handshake write exactly when that is a multiple of ten. After `j` cycles the
trace is that of the start and then the events of the `j` cycles, each with or without its handshake write; and so after all `n`
the handshake writes made are as many as there are such cycles. -/
def Obligations.HandshakeCadence : Prop :=
  ∀ (n : Nat) (s : State) (f : Frame),
    s.phase = .hs → s.stopReq = false → s.cycleCounter < 2 ^ s.cfg.cw →
    s.script = okItemsN s.cfg.cw n s.cycleCounter f →
    let due := fun j => decide ((s.cycleCounter + j) % 2 ^ s.cfg.cw % 10 = 0)
    (∀ j, j ≤ n → ∃ t, runSteps (9 * j) s = .next t ∧ t.phase = .hs ∧
      t.cycleCounter = (s.cycleCounter + j) % 2 ^ s.cfg.cw ∧
      t.script = okItemsN s.cfg.cw (n - j) t.cycleCounter f ∧
      t.trace = s.trace ++ (List.range j).flatMap (fun i => okCycleEvents (due i) f)) ∧
    ∃ t, runSteps (9 * n) s = .next t ∧
      handshakeWrites t.trace = handshakeWrites s.trace + ((List.range n).filter due).length

/-- The distance at the wrap: from the last counter value below `2^CW` that is a multiple of ten, the next handshake comes at
counter value 0, after `2^CW mod 10` increments, which is 6, 2, 4 or 8 by `CW mod 4` and never 10; none comes between. -/
def Obligations.HandshakeDistanceAtWrap : Prop :=
  ∀ cw : Nat, 4 ≤ cw →
    let last := 10 * ((2 ^ cw - 1) / 10)
    (nextCounter cw)^[2 ^ cw % 10] last = 0 ∧
    (∀ j, 0 < j → j < 2 ^ cw % 10 → (nextCounter cw)^[j] last % 10 ≠ 0) ∧
    2 ^ cw % 10 = (if cw % 4 = 0 then 6 else if cw % 4 = 1 then 2 else if cw % 4 = 2 then 4 else 8)

/-- Stop latency: if every request is answered, then from every running state that respects the invariant, with a stop pending,
the session is stopped after at most nine steps, and `Stopped` is the last event. -/
def Obligations.PendingStopIsServed : Prop :=
  ∀ (s : State) (a : CycleAnswers), s.Inv → s.run = true → s.stopReq = true →
    ∃ k t, k ≤ 9 ∧ answeredRun a k s = .next t ∧ t.run = false ∧ t.phase = .idle ∧ t.trace.getLast? = some .stopped

/-! ## Building an instance -/

/-- An instance is built only at bus address 0x52 and with a counter of at least four bits. -/
def Obligations.InstanceNeedsBusAddress : Prop :=
  ∀ (addr : Nat) (c : Config),
    (addr ≠ 0x52 → buildInstance addr c = .error (.invalidBusAddress addr)) ∧
    (addr = 0x52 → c.cw < 4 → buildInstance addr c = .error (.counterTooNarrow c.cw)) ∧
    (addr = 0x52 → 4 ≤ c.cw → buildInstance addr c = .ok c)

/-! ## The clocked rendering -/

/-- The host port and the Transport port in every state. `running`, `stopping` and `status` show RUN, STOP_REQ and STATUS, and so
does the host's read-out. The request signals take exactly three values, in the three bus phases, with `tr_req_valid` at 1: the
words 0x20040, 0x10000 and 0xE0000. Elsewhere there is no request, and the request signals show zeros (the zeros: log 8). -/
def Obligations.RequestWordsOnPort : Prop :=
  ∀ s : State,
    ((portsOut s).running = s.run ∧ (portsOut s).stopping = s.stopReq ∧ (portsOut s).status = s.status ∧
      readout s = { running := s.run, stopping := s.stopReq, status := s.status }) ∧
    (s.phase = .hs → s.cycleCounter % 10 = 0 → outstandingRequest s = some 0x20040 ∧
      (portsOut s).trReqValid = true ∧ (portsOut s).trReqOp = 0 ∧ (portsOut s).trReqLen = 2 ∧
      (portsOut s).trReqData = 0x0040) ∧
    (s.phase = .poll → outstandingRequest s = some 0x10000 ∧
      (portsOut s).trReqValid = true ∧ (portsOut s).trReqOp = 0 ∧ (portsOut s).trReqLen = 1 ∧
      (portsOut s).trReqData = 0x0000) ∧
    (s.phase = .rd6 → outstandingRequest s = some 0xE0000 ∧
      (portsOut s).trReqValid = true ∧ (portsOut s).trReqOp = 1 ∧ (portsOut s).trReqLen = 6 ∧
      (portsOut s).trReqData = 0x0000) ∧
    (issuesBusOp s = false → outstandingRequest s = none ∧
      (portsOut s).trReqValid = false ∧ (portsOut s).trReqOp = 0 ∧ (portsOut s).trReqLen = 0 ∧
      (portsOut s).trReqData = 0x0000)

/-- The eight sink words of a Sample, in order, as numbers; and the sink port in every state: in DECRPT, unless the Sample is
dropped, it shows the word of the beat the beat index says, with `sink_valid` at 1; elsewhere `sink_valid` is 0. -/
def Obligations.SinkWordsOfSample : Prop :=
  (∀ v : Sample, (sampleEvents v).map (fun e => (sinkWord e).map BitVec.toNat) =
    [some v.stickX.toNat, some (0x400 + v.stickY.toNat), some (0x800 + v.accelX.toNat), some (0xC00 + v.accelY.toNat),
      some (0x1000 + v.accelZ.toNat), some (0x3400 + v.buttonC.toNat), some (0x3800 + v.buttonZ.toNat), some 0x5C00]) ∧
  ∀ s : State,
    (s.phase = .decrpt → dropsSample s = false →
      (portsOut s).sinkValid = true ∧
      ((sampleEvents (decodeFrame s.frame))[s.sinkBeat.toNat]?).bind sinkWord =
        some ((portsOut s).sinkKind ++ (portsOut s).sinkChan ++ (portsOut s).sinkValue)) ∧
    (s.phase ≠ .decrpt ∨ dropsSample s = true → (portsOut s).sinkValid = false)

/-- The answer word: an error hides count and data; a count above the request is clamped to it; a read delivers the first
bytes of the data word, byte `i` from bits `8i+7 : 8i`. -/
def Obligations.AnswerWordOnPort : Prop :=
  ∀ (inp : PortsIn),
    (inp.trRspErr = true → portWriteAnswer 2 inp = .err ∧ portWriteAnswer 1 inp = .err ∧ portReadAnswer inp = .err) ∧
    (inp.trRspErr = false →
      (∀ n, ∃ k : Fin (n + 1), portWriteAnswer n inp = .count k ∧ k.val = min inp.trRspCount.toNat n) ∧
      ∃ bs : RxBytes, portReadAnswer inp = .bytes bs ∧ bs.val.length = min inp.trRspCount.toNat 6 ∧
        ∀ (i : Nat) (h : i < bs.val.length), bs.val[i] = inp.trRspData.extractLsb' (8 * i) 8)

/-- The reset edge, from every state and whatever else the ports say: the reset values, FRAME at the draw, an outstanding request
withdrawn, and every output 0. The trace stays as it was, also where a command comes in the same clock or a step would have
completed at this edge (a request answered, a delay over, CHK): that neither leaves an event is the model's choice (log 8). -/
def Obligations.ResetEdgeClearsOutputs : Prop :=
  ∀ (f : ClockFreq) (inp : PortsIn) (s : State), inp.rst = true →
    clockEdge f inp s = { s with
      run := false, stopReq := false, phase := .idle, cycleCounter := 0, frame := inp.draw, rxCount := 0,
      rxErr := false, status := 0, timer := 0, sinkBeat := 0, condPulses := [] } ∧
    portsOut (clockEdge f inp s) =
      { running := false, stopping := false, status := 0, condValid := false, condCode := 0, trReqValid := false,
        trReqOp := 0, trReqLen := 0, trReqData := 0, sinkValid := false, sinkKind := 0, sinkChan := 0, sinkValue := 0 }

/-- Every condition raised at an edge gets a pulse: the pulses to come after an edge are those that were to come, without the one
now ending, and then the conditions this edge raised, in order; `cond_valid` and `cond_code` show the first of them. That pulses
which fall together wait their turn is the model's choice (log 8). -/
def Obligations.CondPulsePerEvent : Prop :=
  ∀ (f : ClockFreq) (inp : PortsIn) (s : State),
    (inp.rst = false → ∃ es, (clockEdge f inp s).trace = s.trace ++ es ∧
      (clockEdge f inp s).condPulses = s.condPulses.tail ++ raisedConds es) ∧
    (∀ c cs, s.condPulses = c :: cs → (portsOut s).condValid = true ∧ (portsOut s).condCode = condCode c) ∧
    (s.condPulses = [] → (portsOut s).condValid = false)

/-- A delay's clocks are `ceil(T * F_CLK)`: the least whole number of clocks that is no shorter than the delay, and at least
one. -/
def Obligations.TickCountIsCeiling : Prop :=
  ∀ (f : ClockFreq) (d : DelayName), f.wellFormed = true →
    1 ≤ ticks f d ∧ delayMillis d * f.num ≤ ticks f d * (1000 * f.den) ∧
    (ticks f d - 1) * (1000 * f.den) < delayMillis d * f.num

/-- A delay phase lasts exactly as many clocks as TIMER was loaded with, whatever the Transport's port shows: before them it
stays and records nothing; at the last it does what the transaction-level step does. -/
def Obligations.DelayLastsTimerClocks : Prop :=
  ∀ (f : ClockFreq) (s : State) (inps : List PortsIn) (d : DelayName) (next : Phase),
    phaseDelay s.phase = some (d, next) → s.timer = inps.length → inps ≠ [] → inps.all quietEdge = true →
    (∀ k, k < inps.length → (clockEdges f (inps.take k) s).phase = s.phase ∧
      (clockEdges f (inps.take k) s).trace = s.trace) ∧
    transactionPart (clockEdges f inps s) =
      { transactionPart s with phase := next, trace := s.trace ++ [.delay d] }

/-- TIMER is loaded with the delay's clocks on entry to each of the three delay phases: after INC; after a poll request whose
answer does not end the session; after the last beat of a Sample, or a dropped one. -/
def Obligations.TimerLoadedOnEntry : Prop :=
  ∀ (f : ClockFreq) (inp : PortsIn) (s : State), quietEdge inp = true →
    (s.phase = .inc → (clockEdge f inp s).phase = .dlyCmd ∧ (clockEdge f inp s).timer = ticks f .settleCmd) ∧
    (s.phase = .poll → inp.trRspValid = true → (inp.trRspErr = false ∨ s.cfg.terrFatal = false) →
      (clockEdge f inp s).phase = .dlyData ∧ (clockEdge f inp s).timer = ticks f .settleData) ∧
    (s.phase = .decrpt → (s.sinkBeat = 7 ∨ dropsSample s = true) →
      (clockEdge f inp s).phase = .dlyRest ∧ (clockEdge f inp s).timer = ticks f .rest)

/-- A Sample takes eight clocks: in clock `k` the sink port shows event `k`, in order, with `sink_valid` at 1; after the eighth the
block is where the transaction-level DECRPT leaves it. A dropped Sample takes one clock and shows nothing. Until the step completes
the trace stays as it was, and then it takes the eight events together (log 8). -/
def Obligations.ReportTakesEightClocks : Prop :=
  ∀ (f : ClockFreq) (s : State) (inps : List PortsIn), s.phase = .decrpt → s.sinkBeat = 0 → inps.all quietEdge = true →
    (dropsSample s = false →
      (inps.length < 8 → (clockEdges f inps s).phase = .decrpt ∧ (clockEdges f inps s).trace = s.trace ∧
        sinkShown (clockEdges f inps s) = (sampleEvents (decodeFrame s.frame))[inps.length]? ∧
        (portsOut (clockEdges f inps s)).sinkValid = true) ∧
      (inps.length = 8 → exec .decrpt (transactionPart s) = .next (transactionPart (clockEdges f inps s)))) ∧
    (dropsSample s = true → (portsOut s).sinkValid = false ∧
      (inps.length = 1 → exec .decrpt (transactionPart s) = .next (transactionPart (clockEdges f inps s))))

/-- The clocked rendering refines the transaction level: every edge without reset and command is exactly one phase operation, given
the port's answer if it needs one, unless the sequencer waits: it is idle, its request is not answered at this edge, its delay is
not over (that TIMER above 1 is so: log 8), or its Sample is not all sent. Then the transaction-level state stays as it is, the
trace included. Edges with commands are those of `BothCommandsInOneClock`. -/
def Obligations.ClockEdgeRefinesOperation : Prop :=
  ∀ (f : ClockFreq) (inp : PortsIn) (s : State), quietEdge inp = true → s.script = [] →
    ((s.phase = .idle ∨ (issuesBusOp s = true ∧ inp.trRspValid = false) ∨
        ((phaseDelay s.phase).isSome = true ∧ 1 < s.timer) ∨
        (s.phase = .decrpt ∧ dropsSample s = false ∧ s.sinkBeat ≠ 7)) ∧
      transactionPart (clockEdge f inp s) = transactionPart s) ∨
    ∃ ans : List Item,
      (issuesBusOp s = false ∧ ans = [] ∨ inp.trRspValid = true ∧
        (ans = [.w2 (portWriteAnswer 2 inp)] ∨ ans = [.w1 (portWriteAnswer 1 inp)] ∨ ans = [.r6 (portReadAnswer inp)])) ∧
      exec s.phase.instr { transactionPart s with script := ans } = .next (transactionPart (clockEdge f inp s))
end

