-- ==== Sys2Proof/Laws/Decode.lean ====
section
/-! SUPPORT. Decode: the step codes, and the 48-bit frame word against its bytes. -/

namespace Sys2Proof

@[simp] theorem ofCode_code (p : Phase) : Phase.ofCode p.code = .ok p := by
  cases p <;> rfl

/-- The word of a step decodes to its operation (30_encoding.md R59). -/
@[simp] theorem decode_ph_code (p : Phase) : decode (.ph p.code) = .ok p.instr := by
  simp [decode]

theorem ofCode_ok {c : BitVec 4} {p : Phase} (h : Phase.ofCode c = .ok p) : p.code = c := by
  simp only [Phase.ofCode] at h
  repeat' split at h
  all_goals first
    | (injection h with h; subst h; simp_all [Phase.code])
    | (cases h)

/-- Byte `k` of a packed frame, bit by bit (30_encoding.md R52). -/
theorem toBits_getLsbD (f : Frame) (i : Nat) (hi : i < 8) :
    f.toBits.getLsbD i = f.b0.getLsbD i ∧ f.toBits.getLsbD (8 + i) = f.b1.getLsbD i ∧
      f.toBits.getLsbD (16 + i) = f.b2.getLsbD i ∧ f.toBits.getLsbD (24 + i) = f.b3.getLsbD i ∧
      f.toBits.getLsbD (32 + i) = f.b4.getLsbD i ∧ f.toBits.getLsbD (40 + i) = f.b5.getLsbD i := by
  simp only [Frame.toBits, BitVec.getLsbD_append]
  interval_cases i <;> simp

/-- Packing a frame and unpacking the word gives the frame back. -/
theorem ofBits_toBits (f : Frame) : Frame.ofBits f.toBits = f := by
  cases f with
  | mk b0 b1 b2 b3 b4 b5 =>
    simp only [Frame.ofBits, Frame.mk.injEq]
    refine ⟨?_, ?_, ?_, ?_, ?_, ?_⟩ <;>
      (apply BitVec.eq_of_getLsbD_eq; intro i hi
       have h := toBits_getLsbD ⟨b0, b1, b2, b3, b4, b5⟩ i hi
       simp [hi, h])

/-- Unpacking a word and packing the frame gives the word back. -/
theorem toBits_ofBits (w : BitVec 48) : (Frame.ofBits w).toBits = w := by
  apply BitVec.eq_of_getLsbD_eq
  intro i hi
  simp only [Frame.toBits, Frame.ofBits, BitVec.getLsbD_extractLsb', BitVec.getLsbD_append]
  interval_cases i <;> simp

end Sys2Proof
end

