-- ==== Sys2Proof/Laws/State.lean ====
section
/-! SUPPORT. State: what each named update leaves in each field, one lemma per field, so that no later proof unfolds a
record update. -/

namespace Sys2Proof.Machine

open Sys2Proof

variable (s : State)

/-! `record` appends to the trace. -/

@[simp] theorem record_cfg (es : List Event) : (record es s).cfg = s.cfg := rfl
@[simp] theorem record_run (es : List Event) : (record es s).run = s.run := rfl
@[simp] theorem record_stopReq (es : List Event) : (record es s).stopReq = s.stopReq := rfl
@[simp] theorem record_phase (es : List Event) : (record es s).phase = s.phase := rfl
@[simp] theorem record_cycleCounter (es : List Event) : (record es s).cycleCounter = s.cycleCounter := rfl
@[simp] theorem record_frame (es : List Event) : (record es s).frame = s.frame := rfl
@[simp] theorem record_rxCount (es : List Event) : (record es s).rxCount = s.rxCount := rfl
@[simp] theorem record_rxErr (es : List Event) : (record es s).rxErr = s.rxErr := rfl
@[simp] theorem record_status (es : List Event) : (record es s).status = s.status := rfl
@[simp] theorem record_timer (es : List Event) : (record es s).timer = s.timer := rfl
@[simp] theorem record_sinkBeat (es : List Event) : (record es s).sinkBeat = s.sinkBeat := rfl
@[simp] theorem record_condPulses (es : List Event) : (record es s).condPulses = s.condPulses := rfl
@[simp] theorem record_script (es : List Event) : (record es s).script = s.script := rfl
@[simp] theorem record_trace (es : List Event) : (record es s).trace = s.trace ++ es := rfl
@[simp] theorem record_decoderOut (es : List Event) : (record es s).decoderOut = s.decoderOut := rfl

/-! `goto` writes PHASE. -/

@[simp] theorem goto_cfg (p : Phase) : (goto p s).cfg = s.cfg := rfl
@[simp] theorem goto_run (p : Phase) : (goto p s).run = s.run := rfl
@[simp] theorem goto_stopReq (p : Phase) : (goto p s).stopReq = s.stopReq := rfl
@[simp] theorem goto_phase (p : Phase) : (goto p s).phase = p := rfl
@[simp] theorem goto_cycleCounter (p : Phase) : (goto p s).cycleCounter = s.cycleCounter := rfl
@[simp] theorem goto_frame (p : Phase) : (goto p s).frame = s.frame := rfl
@[simp] theorem goto_rxCount (p : Phase) : (goto p s).rxCount = s.rxCount := rfl
@[simp] theorem goto_rxErr (p : Phase) : (goto p s).rxErr = s.rxErr := rfl
@[simp] theorem goto_status (p : Phase) : (goto p s).status = s.status := rfl
@[simp] theorem goto_timer (p : Phase) : (goto p s).timer = s.timer := rfl
@[simp] theorem goto_sinkBeat (p : Phase) : (goto p s).sinkBeat = s.sinkBeat := rfl
@[simp] theorem goto_condPulses (p : Phase) : (goto p s).condPulses = s.condPulses := rfl
@[simp] theorem goto_script (p : Phase) : (goto p s).script = s.script := rfl
@[simp] theorem goto_trace (p : Phase) : (goto p s).trace = s.trace := rfl
@[simp] theorem goto_decoderOut (p : Phase) : (goto p s).decoderOut = s.decoderOut := rfl

/-! `raiseCond` sets a STATUS bit and appends one event. -/

@[simp] theorem raiseCond_cfg (c : Condition) : (raiseCond c s).cfg = s.cfg := rfl
@[simp] theorem raiseCond_run (c : Condition) : (raiseCond c s).run = s.run := rfl
@[simp] theorem raiseCond_stopReq (c : Condition) : (raiseCond c s).stopReq = s.stopReq := rfl
@[simp] theorem raiseCond_phase (c : Condition) : (raiseCond c s).phase = s.phase := rfl
@[simp] theorem raiseCond_cycleCounter (c : Condition) : (raiseCond c s).cycleCounter = s.cycleCounter := rfl
@[simp] theorem raiseCond_frame (c : Condition) : (raiseCond c s).frame = s.frame := rfl
@[simp] theorem raiseCond_rxCount (c : Condition) : (raiseCond c s).rxCount = s.rxCount := rfl
@[simp] theorem raiseCond_rxErr (c : Condition) : (raiseCond c s).rxErr = s.rxErr := rfl
@[simp] theorem raiseCond_status (c : Condition) : (raiseCond c s).status = raisedStatus c s.status := rfl
@[simp] theorem raiseCond_timer (c : Condition) : (raiseCond c s).timer = s.timer := rfl
@[simp] theorem raiseCond_sinkBeat (c : Condition) : (raiseCond c s).sinkBeat = s.sinkBeat := rfl
@[simp] theorem raiseCond_condPulses (c : Condition) : (raiseCond c s).condPulses = s.condPulses := rfl
@[simp] theorem raiseCond_script (c : Condition) : (raiseCond c s).script = s.script := rfl
@[simp] theorem raiseCond_trace (c : Condition) : (raiseCond c s).trace = s.trace ++ [.cond c] := rfl
@[simp] theorem raiseCond_decoderOut (c : Condition) : (raiseCond c s).decoderOut = s.decoderOut := rfl

/-! `abortSession` clears RUN, STOP_REQ and PHASE and appends `Stopped`. -/

@[simp] theorem abortSession_cfg : (abortSession s).cfg = s.cfg := rfl
@[simp] theorem abortSession_run : (abortSession s).run = false := rfl
@[simp] theorem abortSession_stopReq : (abortSession s).stopReq = false := rfl
@[simp] theorem abortSession_phase : (abortSession s).phase = .idle := rfl
@[simp] theorem abortSession_cycleCounter : (abortSession s).cycleCounter = s.cycleCounter := rfl
@[simp] theorem abortSession_frame : (abortSession s).frame = s.frame := rfl
@[simp] theorem abortSession_rxCount : (abortSession s).rxCount = s.rxCount := rfl
@[simp] theorem abortSession_rxErr : (abortSession s).rxErr = s.rxErr := rfl
@[simp] theorem abortSession_status : (abortSession s).status = s.status := rfl
@[simp] theorem abortSession_timer : (abortSession s).timer = s.timer := rfl
@[simp] theorem abortSession_sinkBeat : (abortSession s).sinkBeat = s.sinkBeat := rfl
@[simp] theorem abortSession_condPulses : (abortSession s).condPulses = s.condPulses := rfl
@[simp] theorem abortSession_script : (abortSession s).script = s.script := rfl
@[simp] theorem abortSession_trace : (abortSession s).trace = s.trace ++ [.stopped] := rfl
@[simp] theorem abortSession_decoderOut : (abortSession s).decoderOut = s.decoderOut := rfl

/-! `receiveBytes` writes FRAME, RXERR and RXCOUNT. -/

@[simp] theorem receiveBytes_cfg (bs : List Byte) : (receiveBytes bs s).cfg = s.cfg := rfl
@[simp] theorem receiveBytes_run (bs : List Byte) : (receiveBytes bs s).run = s.run := rfl
@[simp] theorem receiveBytes_stopReq (bs : List Byte) : (receiveBytes bs s).stopReq = s.stopReq := rfl
@[simp] theorem receiveBytes_phase (bs : List Byte) : (receiveBytes bs s).phase = s.phase := rfl
@[simp] theorem receiveBytes_cycleCounter (bs : List Byte) : (receiveBytes bs s).cycleCounter = s.cycleCounter := rfl
@[simp] theorem receiveBytes_frame (bs : List Byte) : (receiveBytes bs s).frame = loadFrame s.frame bs := rfl
@[simp] theorem receiveBytes_rxCount (bs : List Byte) : (receiveBytes bs s).rxCount = BitVec.ofNat 3 bs.length := rfl
@[simp] theorem receiveBytes_rxErr (bs : List Byte) : (receiveBytes bs s).rxErr = false := rfl
@[simp] theorem receiveBytes_status (bs : List Byte) : (receiveBytes bs s).status = s.status := rfl
@[simp] theorem receiveBytes_timer (bs : List Byte) : (receiveBytes bs s).timer = s.timer := rfl
@[simp] theorem receiveBytes_sinkBeat (bs : List Byte) : (receiveBytes bs s).sinkBeat = s.sinkBeat := rfl
@[simp] theorem receiveBytes_condPulses (bs : List Byte) : (receiveBytes bs s).condPulses = s.condPulses := rfl
@[simp] theorem receiveBytes_script (bs : List Byte) : (receiveBytes bs s).script = s.script := rfl
@[simp] theorem receiveBytes_trace (bs : List Byte) : (receiveBytes bs s).trace = s.trace := rfl
@[simp] theorem receiveBytes_decoderOut (bs : List Byte) : (receiveBytes bs s).decoderOut = s.decoderOut := rfl

/-! `receiveError` writes RXERR and RXCOUNT. -/

@[simp] theorem receiveError_cfg : (receiveError s).cfg = s.cfg := rfl
@[simp] theorem receiveError_run : (receiveError s).run = s.run := rfl
@[simp] theorem receiveError_stopReq : (receiveError s).stopReq = s.stopReq := rfl
@[simp] theorem receiveError_phase : (receiveError s).phase = s.phase := rfl
@[simp] theorem receiveError_cycleCounter : (receiveError s).cycleCounter = s.cycleCounter := rfl
@[simp] theorem receiveError_frame : (receiveError s).frame = s.frame := rfl
@[simp] theorem receiveError_rxCount : (receiveError s).rxCount = 0 := rfl
@[simp] theorem receiveError_rxErr : (receiveError s).rxErr = true := rfl
@[simp] theorem receiveError_status : (receiveError s).status = s.status := rfl
@[simp] theorem receiveError_timer : (receiveError s).timer = s.timer := rfl
@[simp] theorem receiveError_sinkBeat : (receiveError s).sinkBeat = s.sinkBeat := rfl
@[simp] theorem receiveError_condPulses : (receiveError s).condPulses = s.condPulses := rfl
@[simp] theorem receiveError_script : (receiveError s).script = s.script := rfl
@[simp] theorem receiveError_trace : (receiveError s).trace = s.trace := rfl
@[simp] theorem receiveError_decoderOut : (receiveError s).decoderOut = s.decoderOut := rfl

/-! `resetBlock` gives every element of the block its reset value. -/

@[simp] theorem resetBlock_cfg (draw : Frame) : (resetBlock draw s).cfg = s.cfg := rfl
@[simp] theorem resetBlock_run (draw : Frame) : (resetBlock draw s).run = false := rfl
@[simp] theorem resetBlock_stopReq (draw : Frame) : (resetBlock draw s).stopReq = false := rfl
@[simp] theorem resetBlock_phase (draw : Frame) : (resetBlock draw s).phase = .idle := rfl
@[simp] theorem resetBlock_cycleCounter (draw : Frame) : (resetBlock draw s).cycleCounter = 0 := rfl
@[simp] theorem resetBlock_frame (draw : Frame) : (resetBlock draw s).frame = draw := rfl
@[simp] theorem resetBlock_rxCount (draw : Frame) : (resetBlock draw s).rxCount = 0 := rfl
@[simp] theorem resetBlock_rxErr (draw : Frame) : (resetBlock draw s).rxErr = false := rfl
@[simp] theorem resetBlock_status (draw : Frame) : (resetBlock draw s).status = 0 := rfl
@[simp] theorem resetBlock_timer (draw : Frame) : (resetBlock draw s).timer = 0 := rfl
@[simp] theorem resetBlock_sinkBeat (draw : Frame) : (resetBlock draw s).sinkBeat = 0 := rfl
@[simp] theorem resetBlock_condPulses (draw : Frame) : (resetBlock draw s).condPulses = [] := rfl
@[simp] theorem resetBlock_script (draw : Frame) : (resetBlock draw s).script = s.script := rfl
@[simp] theorem resetBlock_trace (draw : Frame) : (resetBlock draw s).trace = s.trace := rfl
@[simp] theorem resetBlock_decoderOut (draw : Frame) : (resetBlock draw s).decoderOut = s.decoderOut := rfl

/-! `popItem` takes the head of the scenario. -/

@[simp] theorem popItem_cfg : (popItem s).cfg = s.cfg := rfl
@[simp] theorem popItem_run : (popItem s).run = s.run := rfl
@[simp] theorem popItem_stopReq : (popItem s).stopReq = s.stopReq := rfl
@[simp] theorem popItem_phase : (popItem s).phase = s.phase := rfl
@[simp] theorem popItem_cycleCounter : (popItem s).cycleCounter = s.cycleCounter := rfl
@[simp] theorem popItem_frame : (popItem s).frame = s.frame := rfl
@[simp] theorem popItem_rxCount : (popItem s).rxCount = s.rxCount := rfl
@[simp] theorem popItem_rxErr : (popItem s).rxErr = s.rxErr := rfl
@[simp] theorem popItem_status : (popItem s).status = s.status := rfl
@[simp] theorem popItem_timer : (popItem s).timer = s.timer := rfl
@[simp] theorem popItem_sinkBeat : (popItem s).sinkBeat = s.sinkBeat := rfl
@[simp] theorem popItem_condPulses : (popItem s).condPulses = s.condPulses := rfl
@[simp] theorem popItem_script : (popItem s).script = s.script.tail := rfl
@[simp] theorem popItem_trace : (popItem s).trace = s.trace := rfl
@[simp] theorem popItem_decoderOut : (popItem s).decoderOut = s.decoderOut := rfl

/-! `delayElapsed` records one delay and writes PHASE. -/

@[simp] theorem delayElapsed_cfg (d : DelayName) (p : Phase) : (delayElapsed d p s).cfg = s.cfg := rfl
@[simp] theorem delayElapsed_run (d : DelayName) (p : Phase) : (delayElapsed d p s).run = s.run := rfl
@[simp] theorem delayElapsed_stopReq (d : DelayName) (p : Phase) : (delayElapsed d p s).stopReq = s.stopReq := rfl
@[simp] theorem delayElapsed_phase (d : DelayName) (p : Phase) : (delayElapsed d p s).phase = p := rfl
@[simp] theorem delayElapsed_cycleCounter (d : DelayName) (p : Phase) : (delayElapsed d p s).cycleCounter = s.cycleCounter := rfl
@[simp] theorem delayElapsed_frame (d : DelayName) (p : Phase) : (delayElapsed d p s).frame = s.frame := rfl
@[simp] theorem delayElapsed_rxCount (d : DelayName) (p : Phase) : (delayElapsed d p s).rxCount = s.rxCount := rfl
@[simp] theorem delayElapsed_rxErr (d : DelayName) (p : Phase) : (delayElapsed d p s).rxErr = s.rxErr := rfl
@[simp] theorem delayElapsed_status (d : DelayName) (p : Phase) : (delayElapsed d p s).status = s.status := rfl
@[simp] theorem delayElapsed_timer (d : DelayName) (p : Phase) : (delayElapsed d p s).timer = s.timer := rfl
@[simp] theorem delayElapsed_sinkBeat (d : DelayName) (p : Phase) : (delayElapsed d p s).sinkBeat = s.sinkBeat := rfl
@[simp] theorem delayElapsed_condPulses (d : DelayName) (p : Phase) : (delayElapsed d p s).condPulses = s.condPulses := rfl
@[simp] theorem delayElapsed_script (d : DelayName) (p : Phase) : (delayElapsed d p s).script = s.script := rfl
@[simp] theorem delayElapsed_trace (d : DelayName) (p : Phase) : (delayElapsed d p s).trace = s.trace ++ [.delay d] := rfl
@[simp] theorem delayElapsed_decoderOut (d : DelayName) (p : Phase) : (delayElapsed d p s).decoderOut = s.decoderOut := rfl

/-! `showDecoded` writes the decoder's output alone. -/

@[simp] theorem showDecoded_cfg (v : DecoderOut) : (showDecoded v s).cfg = s.cfg := rfl
@[simp] theorem showDecoded_run (v : DecoderOut) : (showDecoded v s).run = s.run := rfl
@[simp] theorem showDecoded_stopReq (v : DecoderOut) : (showDecoded v s).stopReq = s.stopReq := rfl
@[simp] theorem showDecoded_phase (v : DecoderOut) : (showDecoded v s).phase = s.phase := rfl
@[simp] theorem showDecoded_cycleCounter (v : DecoderOut) : (showDecoded v s).cycleCounter = s.cycleCounter := rfl
@[simp] theorem showDecoded_frame (v : DecoderOut) : (showDecoded v s).frame = s.frame := rfl
@[simp] theorem showDecoded_rxCount (v : DecoderOut) : (showDecoded v s).rxCount = s.rxCount := rfl
@[simp] theorem showDecoded_rxErr (v : DecoderOut) : (showDecoded v s).rxErr = s.rxErr := rfl
@[simp] theorem showDecoded_status (v : DecoderOut) : (showDecoded v s).status = s.status := rfl
@[simp] theorem showDecoded_timer (v : DecoderOut) : (showDecoded v s).timer = s.timer := rfl
@[simp] theorem showDecoded_sinkBeat (v : DecoderOut) : (showDecoded v s).sinkBeat = s.sinkBeat := rfl
@[simp] theorem showDecoded_condPulses (v : DecoderOut) : (showDecoded v s).condPulses = s.condPulses := rfl
@[simp] theorem showDecoded_script (v : DecoderOut) : (showDecoded v s).script = s.script := rfl
@[simp] theorem showDecoded_trace (v : DecoderOut) : (showDecoded v s).trace = s.trace := rfl
@[simp] theorem showDecoded_decoderOut (v : DecoderOut) : (showDecoded v s).decoderOut = v := rfl

/-! `placeItem` replaces the scenario. -/

@[simp] theorem placeItem_cfg (it : Item) : (placeItem it s).cfg = s.cfg := rfl
@[simp] theorem placeItem_run (it : Item) : (placeItem it s).run = s.run := rfl
@[simp] theorem placeItem_stopReq (it : Item) : (placeItem it s).stopReq = s.stopReq := rfl
@[simp] theorem placeItem_phase (it : Item) : (placeItem it s).phase = s.phase := rfl
@[simp] theorem placeItem_cycleCounter (it : Item) : (placeItem it s).cycleCounter = s.cycleCounter := rfl
@[simp] theorem placeItem_frame (it : Item) : (placeItem it s).frame = s.frame := rfl
@[simp] theorem placeItem_rxCount (it : Item) : (placeItem it s).rxCount = s.rxCount := rfl
@[simp] theorem placeItem_rxErr (it : Item) : (placeItem it s).rxErr = s.rxErr := rfl
@[simp] theorem placeItem_status (it : Item) : (placeItem it s).status = s.status := rfl
@[simp] theorem placeItem_timer (it : Item) : (placeItem it s).timer = s.timer := rfl
@[simp] theorem placeItem_sinkBeat (it : Item) : (placeItem it s).sinkBeat = s.sinkBeat := rfl
@[simp] theorem placeItem_condPulses (it : Item) : (placeItem it s).condPulses = s.condPulses := rfl
@[simp] theorem placeItem_script (it : Item) : (placeItem it s).script = [it] := rfl
@[simp] theorem placeItem_trace (it : Item) : (placeItem it s).trace = s.trace := rfl
@[simp] theorem placeItem_decoderOut (it : Item) : (placeItem it s).decoderOut = s.decoderOut := rfl

/-! `placePhase` writes PHASE, RUN and the scenario. -/

@[simp] theorem placePhase_cfg (p : Phase) : (placePhase p s).cfg = s.cfg := rfl
@[simp] theorem placePhase_run (p : Phase) : (placePhase p s).run = decide (p ≠ .idle) := rfl
@[simp] theorem placePhase_stopReq (p : Phase) : (placePhase p s).stopReq = s.stopReq := rfl
@[simp] theorem placePhase_phase (p : Phase) : (placePhase p s).phase = p := rfl
@[simp] theorem placePhase_cycleCounter (p : Phase) : (placePhase p s).cycleCounter = s.cycleCounter := rfl
@[simp] theorem placePhase_frame (p : Phase) : (placePhase p s).frame = s.frame := rfl
@[simp] theorem placePhase_rxCount (p : Phase) : (placePhase p s).rxCount = s.rxCount := rfl
@[simp] theorem placePhase_rxErr (p : Phase) : (placePhase p s).rxErr = s.rxErr := rfl
@[simp] theorem placePhase_status (p : Phase) : (placePhase p s).status = s.status := rfl
@[simp] theorem placePhase_timer (p : Phase) : (placePhase p s).timer = s.timer := rfl
@[simp] theorem placePhase_sinkBeat (p : Phase) : (placePhase p s).sinkBeat = s.sinkBeat := rfl
@[simp] theorem placePhase_condPulses (p : Phase) : (placePhase p s).condPulses = s.condPulses := rfl
@[simp] theorem placePhase_script (p : Phase) : (placePhase p s).script = successAnswer p := rfl
@[simp] theorem placePhase_trace (p : Phase) : (placePhase p s).trace = s.trace := rfl
@[simp] theorem placePhase_decoderOut (p : Phase) : (placePhase p s).decoderOut = s.decoderOut := rfl

/-! `transactionPart` clears the clocked rendering's elements. -/

@[simp] theorem transactionPart_cfg : (transactionPart s).cfg = s.cfg := rfl
@[simp] theorem transactionPart_run : (transactionPart s).run = s.run := rfl
@[simp] theorem transactionPart_stopReq : (transactionPart s).stopReq = s.stopReq := rfl
@[simp] theorem transactionPart_phase : (transactionPart s).phase = s.phase := rfl
@[simp] theorem transactionPart_cycleCounter : (transactionPart s).cycleCounter = s.cycleCounter := rfl
@[simp] theorem transactionPart_frame : (transactionPart s).frame = s.frame := rfl
@[simp] theorem transactionPart_rxCount : (transactionPart s).rxCount = s.rxCount := rfl
@[simp] theorem transactionPart_rxErr : (transactionPart s).rxErr = s.rxErr := rfl
@[simp] theorem transactionPart_status : (transactionPart s).status = s.status := rfl
@[simp] theorem transactionPart_timer : (transactionPart s).timer = 0 := rfl
@[simp] theorem transactionPart_sinkBeat : (transactionPart s).sinkBeat = 0 := rfl
@[simp] theorem transactionPart_condPulses : (transactionPart s).condPulses = [] := rfl
@[simp] theorem transactionPart_script : (transactionPart s).script = s.script := rfl
@[simp] theorem transactionPart_trace : (transactionPart s).trace = s.trace := rfl
@[simp] theorem transactionPart_decoderOut : (transactionPart s).decoderOut = s.decoderOut := rfl

end Sys2Proof.Machine
end

