-- ==== Sys2Proof/Laws/Ops.lean ====
section
/-! SUPPORT. Ops: for each shared operation, what it answers on each of its cases, so that a proof cites the case and does not
unfold the operation. -/

namespace Sys2Proof.Machine

open Sys2Proof

variable (s : State)

/-! The bits of STATUS. -/

theorem raisedStatus_getLsbD (c : Condition) (st : BitVec 4) (j : Nat) :
    (raisedStatus c st).getLsbD j = (st.getLsbD j || (statusMask c).getLsbD j) := by
  simp [raisedStatus]

/-- A raised condition's bit is set (10_state.md R18). -/
theorem raisedStatus_own_bit (c : Condition) (st : BitVec 4) (h : (condCode c).toNat < 4) :
    (raisedStatus c st).getLsbD (condCode c).toNat = true := by
  rw [raisedStatus_getLsbD]
  cases c <;> simp_all [condCode, statusMask]

/-! After an error. -/

theorem afterError_fatal (next : Phase) (h : s.cfg.terrFatal = true) : afterError next s = abortSession s := by
  simp [afterError, h]

theorem afterError_logged (next : Phase) (h : s.cfg.terrFatal = false) : afterError next s = goto next s := by
  simp [afterError, h]

/-! HS. -/

theorem handshakeAnswered_full (k : Fin 3) (h : k.val = 2) :
    handshakeAnswered (.count k) s = goto .inc (record [.busWrite [0x40, 0x00] (.count 2)] s) := by
  simp [handshakeAnswered, writeResult, hsLen, hsPayload, h]

theorem handshakeAnswered_short (k : Fin 3) (h : k.val < 2) :
    handshakeAnswered (.count k) s =
      goto .inc (raiseCond .handshakeIncomplete (record [.busWrite [0x40, 0x00] (.count k.val)] s)) := by
  simp [handshakeAnswered, writeResult, hsLen, hsPayload, h]

theorem handshakeAnswered_err :
    handshakeAnswered .err s =
      afterError .inc (raiseCond .transportError (record [.busWrite [0x40, 0x00] .err] s)) := rfl

/-! POLL. -/

theorem pollAnswered_full (k : Fin 2) (h : k.val = 1) :
    pollAnswered (.count k) s = goto .dlyData (record [.busWrite [0x00] (.count 1)] s) := by
  simp [pollAnswered, writeResult, pollLen, pollPayload, h]

theorem pollAnswered_short (k : Fin 2) (h : k.val = 0) :
    pollAnswered (.count k) s =
      goto .dlyData (raiseCond .pollRequestFailed (record [.busWrite [0x00] (.count 0)] s)) := by
  simp [pollAnswered, writeResult, pollLen, pollPayload, h]

theorem pollAnswered_err :
    pollAnswered .err s =
      afterError .dlyData
        (raiseCond .pollRequestFailed (raiseCond .transportError (record [.busWrite [0x00] .err] s))) := rfl

/-! RD6. -/

theorem readAnswered_full (bs : RxBytes) (h : bs.val.length = 6) :
    readAnswered (.bytes bs) s = goto .decrpt (receiveBytes bs.val (record [.busRead 6 (.bytes bs.val)] s)) := by
  simp [readAnswered, readResult, frameLen, h]

theorem readAnswered_short (bs : RxBytes) (h : bs.val.length < 6) :
    readAnswered (.bytes bs) s =
      goto .decrpt (raiseCond .frameIncomplete (receiveBytes bs.val (record [.busRead 6 (.bytes bs.val)] s))) := by
  simp [readAnswered, readResult, frameLen, h]

theorem readAnswered_err :
    readAnswered .err s =
      afterError .decrpt (receiveError (raiseCond .transportError (record [.busRead 6 .err] s))) := rfl

/-! CHK. -/

theorem cancellationChecked_pending (h : s.stopReq = true) : cancellationChecked s = abortSession s := by
  simp [cancellationChecked, h, abortSession, record]

theorem cancellationChecked_clear (h : s.stopReq = false) : cancellationChecked s = goto .hs s := by
  simp [cancellationChecked, h]

/-! START and STOP. -/

theorem startCommand_running (h : s.run = true) : startCommand s = record [.hostStart] s := by
  simp [startCommand, h]

theorem startCommand_stopped (h : s.run = false) :
    startCommand s = { record [.hostStart] s with
      run := true, stopReq := false, cycleCounter := 0, status := 0, phase := .hs } := by
  simp [startCommand, h]

theorem stopCommand_running (h : s.run = true) :
    stopCommand s = { record [.hostStop] s with stopReq := true } := by
  simp [stopCommand, h]

theorem stopCommand_stopped (h : s.run = false) : stopCommand s = record [.hostStop] s := by
  simp [stopCommand, h]

/-! DECRPT. -/

theorem reportEvents_sent (h : dropsSample s = false) : reportEvents s = sampleEvents (decodeFrame s.frame) := by
  simp [reportEvents, h]

theorem reportEvents_dropped (h : dropsSample s = true) : reportEvents s = [] := by
  simp [reportEvents, h]

/-! The counter. -/

theorem nextCounter_lt (cw c : Nat) : nextCounter cw c < 2 ^ cw := Nat.mod_lt _ (Nat.two_pow_pos cw)

/-! The frame buffer's load, byte by byte (10_state.md R11). -/

theorem frameByte_loadFrame (f : Frame) (bs : List Byte) (k : Fin 6) :
    frameByte (loadFrame f bs) k = if h : k.val < bs.length then bs[k.val] else frameByte f k := by
  fin_cases k <;> simp only [frameByte, loadFrame] <;> split <;> simp_all

theorem frame_ext_bytes {f g : Frame} (h : ∀ k, frameByte f k = frameByte g k) : f = g := by
  cases f; cases g
  have h0 := h 0; have h1 := h 1; have h2 := h 2; have h3 := h 3; have h4 := h 4; have h5 := h 5
  simp only [frameByte] at h0 h1 h2 h3 h4 h5
  simp [*]

end Sys2Proof.Machine
end

