-- ==== Sys2Proof/Laws/Step.lean ====
section
/-! SUPPORT. Step: what each operation answers, case by case, what fetch takes next, and the inversion of `step`: every next
state is one of the listed ones. -/

namespace Sys2Proof.Machine

open Sys2Proof

variable (s : State)

/-! Each operation on each of its cases. -/

theorem exec_hs_skips (h : handshakeDue s = false) : exec .hs s = .next (goto .inc s) := by
  simp [exec, execHs, h]

theorem exec_hs_answered (a : WriteAnswer 2) (rest : List Item) (h : handshakeDue s = true)
    (hs : s.script = .w2 a :: rest) : exec .hs s = .next (handshakeAnswered a (popItem s)) := by
  simp [exec, execHs, h, hs]

theorem exec_poll_answered (a : WriteAnswer 1) (rest : List Item) (hs : s.script = .w1 a :: rest) :
    exec .poll s = .next (pollAnswered a (popItem s)) := by
  simp [exec, execPoll, hs]

theorem exec_rd6_answered (a : ReadAnswer) (rest : List Item) (hs : s.script = .r6 a :: rest) :
    exec .rd6 s = .next (readAnswered a (popItem s)) := by
  simp [exec, execRd6, hs]

@[simp] theorem exec_idle : exec .idle s = .next s := rfl
@[simp] theorem exec_inc :
    exec .inc s = .next (goto .dlyCmd { s with cycleCounter := nextCounter s.cfg.cw s.cycleCounter }) := rfl
@[simp] theorem exec_dlyCmd : exec .dlyCmd s = .next (delayElapsed .settleCmd .poll s) := rfl
@[simp] theorem exec_dlyData : exec .dlyData s = .next (delayElapsed .settleData .rd6 s) := rfl
@[simp] theorem exec_decrpt : exec .decrpt s = .next (goto .dlyRest (record (reportEvents s) s)) := rfl
@[simp] theorem exec_dlyRest : exec .dlyRest s = .next (delayElapsed .rest .chk s) := rfl
@[simp] theorem exec_chk : exec .chk s = .next (cancellationChecked s) := rfl
@[simp] theorem exec_start : exec .start s = .next (startCommand s) := rfl
@[simp] theorem exec_stop : exec .stop s = .next (stopCommand s) := rfl

/-! What is fetched. -/

/-- With an empty scenario the phase operation is fetched (30_encoding.md R59, R63). -/
theorem fetch_empty (h : s.script = []) : fetch s = .run s.phase.instr s := by
  simp [fetch, h]

theorem fetch_start (rest : List Item) (h : s.script = .start :: rest) : fetch s = .run .start (popItem s) := by
  simp [fetch, h]

theorem fetch_stop (rest : List Item) (h : s.script = .stop :: rest) : fetch s = .run .stop (popItem s) := by
  simp [fetch, h]

theorem fetch_reset (draw : Frame) (rest : List Item) (h : s.script = .reset draw :: rest) :
    fetch s = .environment (resetBlock draw (popItem s)) := by
  simp [fetch, h]

theorem fetch_advance (rest : List Item) (h : s.script = .advance :: rest) (hi : s.phase ≠ .idle)
    (hb : issuesBusOp s = false) : fetch s = .run s.phase.instr (popItem s) := by
  simp [fetch, h, hi, hb]

/-- An answer at the head does not keep the sequencer from a step that asks for none. -/
theorem fetchAnswer_passes (it : Item) (hi : s.phase ≠ .idle) (hb : issuesBusOp s = false) :
    fetchAnswer s it = .run s.phase.instr s := by
  simp [fetchAnswer, hi, hb]

/-- An answer of the right shape lets the bus operation run. -/
theorem fetchAnswer_fits (it : Item) (hi : s.phase ≠ .idle) (ha : answersPhase s.phase it = true) :
    fetchAnswer s it = .run s.phase.instr s := by
  simp [fetchAnswer, hi, ha]

theorem fetchAnswer_cases {it : Item} {i : Instr} {s' : State} (h : fetchAnswer s it = .run i s') :
    s.phase ≠ .idle ∧ i = s.phase.instr ∧ s' = s := by
  unfold fetchAnswer at h
  split at h
  · cases h
  · split at h
    · cases h
    · injection h with h1 h2
      exact ⟨by assumption, h1.symm, h2.symm⟩

/-! The inversion of `step`. -/

/-- Everything the phase operation that PHASE selects can do. -/
inductive PhaseCase (s : State) : State → Prop where
  | idle (hp : s.phase = .idle) : PhaseCase s s
  | waiting (h : issuesBusOp s = true) : PhaseCase s s
  | hsSkipped (hp : s.phase = .hs) (h : handshakeDue s = false) : PhaseCase s (goto .inc s)
  | hsAnswered (a : WriteAnswer 2) (hp : s.phase = .hs) (h : handshakeDue s = true)
      (ha : s.script.head? = some (.w2 a)) : PhaseCase s (handshakeAnswered a (popItem s))
  | inc (hp : s.phase = .inc) :
      PhaseCase s (goto .dlyCmd { s with cycleCounter := nextCounter s.cfg.cw s.cycleCounter })
  | dlyCmd (hp : s.phase = .dlyCmd) : PhaseCase s (delayElapsed .settleCmd .poll s)
  | pollAnswered (a : WriteAnswer 1) (hp : s.phase = .poll) (ha : s.script.head? = some (.w1 a)) :
      PhaseCase s (pollAnswered a (popItem s))
  | dlyData (hp : s.phase = .dlyData) : PhaseCase s (delayElapsed .settleData .rd6 s)
  | rd6Answered (a : ReadAnswer) (hp : s.phase = .rd6) (ha : s.script.head? = some (.r6 a)) :
      PhaseCase s (readAnswered a (popItem s))
  | decrpt (hp : s.phase = .decrpt) : PhaseCase s (goto .dlyRest (record (reportEvents s) s))
  | dlyRest (hp : s.phase = .dlyRest) : PhaseCase s (delayElapsed .rest .chk s)
  | chk (hp : s.phase = .chk) : PhaseCase s (cancellationChecked s)

/-- Everything one step can do. -/
inductive StepCase (s : State) : State → Prop where
  | reset (draw : Frame) (h : s.script.head? = some (.reset draw)) : StepCase s (resetBlock draw (popItem s))
  | passed (h : s.script.head? = some .wait ∨ s.script.head? = some .advance) (hp : s.phase = .idle) :
      StepCase s (popItem s)
  | start (h : s.script.head? = some .start) : StepCase s (startCommand (popItem s))
  | stop (h : s.script.head? = some .stop) : StepCase s (stopCommand (popItem s))
  | probe (v : DecoderOut) (h : s.script ≠ []) (ht : sequencerTurn s = false) : StepCase s (showDecoded v (popItem s))
  | phase (t : State) (h : sequencerTurn s = true) (ht : PhaseCase s t) : StepCase s t
  | advanced (t : State) (h : s.script.head? = some .advance) (hb : issuesBusOp s = false)
      (ht : PhaseCase (popItem s) t) : StepCase s t

/-- A phase operation performed at its own phase is one of the cases. -/
theorem phase_cases {t : State} (h : exec s.phase.instr s = .next t) : PhaseCase s t := by
  cases hp : s.phase <;> rw [hp] at h <;> simp only [Phase.instr] at h
  case idle => cases h; exact .idle hp
  case inc => cases h; exact .inc hp
  case dlyCmd => cases h; exact .dlyCmd hp
  case dlyData => cases h; exact .dlyData hp
  case decrpt => cases h; exact .decrpt hp
  case dlyRest => cases h; exact .dlyRest hp
  case chk => cases h; exact .chk hp
  case hs =>
    simp only [exec, execHs] at h
    split at h
    · next hd =>
      split at h
      · next a _ hs => cases h; exact .hsAnswered a hp hd (by simp [hs])
      · cases h; exact .waiting (by simp [issuesBusOp, hp, hd])
    · next hd => cases h; exact .hsSkipped hp (by simpa using hd)
  case poll =>
    simp only [exec, execPoll] at h
    split at h
    · next a _ hs => cases h; exact .pollAnswered a hp (by simp [hs])
    · cases h; exact .waiting (by simp [issuesBusOp, hp])
  case rd6 =>
    simp only [exec, execRd6] at h
    split at h
    · next a _ hs => cases h; exact .rd6Answered a hp (by simp [hs])
    · cases h; exact .waiting (by simp [issuesBusOp, hp])

/-- A decoder function only shows its value. -/
theorem exec_frameFn (fn : FrameFn) (f : Frame) (t : State) (h : exec (fn.instr f) s = .next t) :
    ∃ v, t = showDecoded v s := by
  cases fn <;> cases h <;> exact ⟨_, rfl⟩

/-- Every next state of `step` is one of the cases of `StepCase`. -/
theorem step_cases {t : State} (h : step s = .next t) : StepCase s t := by
  simp only [step, fetch] at h
  cases hs : s.script with
  | nil => simp only [hs] at h; exact .phase t (by simp [sequencerTurn, hs]) (phase_cases s h)
  | cons it rest =>
    have hh : s.script.head? = some it := by simp [hs]
    have hn : s.script ≠ [] := by simp [hs]
    have answer : ∀ it', sequencerTurn s = true → (match fetchAnswer s it' with
        | .run i s' => exec i s'
        | .environment s' => .next s'
        | .malformed d => .refused (.malformedScenario d)) = Host.Outcome.next t → StepCase s t := by
      intro it' ht h'
      cases hf : fetchAnswer s it' with
      | run i s' =>
        obtain ⟨-, rfl, rfl⟩ := fetchAnswer_cases s hf
        simp only [hf] at h'; exact .phase t ht (phase_cases _ h')
      | environment s' =>
        simp only [fetchAnswer] at hf
        repeat' split at hf
        all_goals cases hf
      | malformed d => simp only [hf] at h'; cases h'
    cases it with
    | reset draw => simp only [hs] at h; cases h; exact .reset draw hh
    | start => simp only [hs] at h; cases h; exact .start hh
    | stop => simp only [hs] at h; cases h; exact .stop hh
    | wait =>
      simp only [hs] at h
      by_cases hp : s.phase = .idle
      · simp only [hp, if_true] at h; cases h; exact .passed (.inl hh) hp
      · simp only [hp, if_false] at h
        cases hb : issuesBusOp s with
        | true => simp [hb] at h
        | false => simp only [hb] at h; exact .phase t (by simp [sequencerTurn, hs]) (phase_cases s h)
    | advance =>
      simp only [hs] at h
      by_cases hp : s.phase = .idle
      · simp only [hp, if_true] at h; cases h; exact .passed (.inr hh) hp
      · simp only [hp, if_false] at h
        cases hb : issuesBusOp s with
        | true => simp [hb] at h
        | false => simp only [hb] at h; exact .advanced t hh hb (phase_cases (popItem s) h)
    | w2 a => simp only [hs] at h; exact answer _ (by simp [sequencerTurn, hs]) h
    | w1 a => simp only [hs] at h; exact answer _ (by simp [sequencerTurn, hs]) h
    | r6 a => simp only [hs] at h; exact answer _ (by simp [sequencerTurn, hs]) h
    | probeByte b => simp only [hs] at h; cases h; exact .probe _ hn (by simp [sequencerTurn, hs])
    | probeFrame fn w =>
      simp only [hs] at h
      obtain ⟨v, rfl⟩ := exec_frameFn _ fn _ t h
      exact .probe v hn (by simp [sequencerTurn, hs])

end Sys2Proof.Machine
end

