-- ==== Sys2Proof/Laws/Cases.lean ====
section
/-! SUPPORT. Cases: for each shared operation one lemma that says once everything it can do; what a step does on an answer at
the head of the scenario; and how the trace functions of Safety.lean read an appended trace. -/

namespace Sys2Proof.Machine

open Sys2Proof

/-- Everything an answered handshake write can do (41_sequencer.md R91). -/
theorem handshakeAnswered_cases (a : WriteAnswer 2) (s : State) :
    (∃ k : Fin 3, a = .count k ∧ k.val = 2 ∧
      handshakeAnswered a s = goto .inc (record [.busWrite [0x40, 0x00] (.count 2)] s)) ∨
    (∃ k : Fin 3, a = .count k ∧ k.val < 2 ∧
      handshakeAnswered a s =
        goto .inc (raiseCond .handshakeIncomplete (record [.busWrite [0x40, 0x00] (.count k.val)] s))) ∨
    (a = .err ∧ s.cfg.terrFatal = false ∧
      handshakeAnswered a s = goto .inc (raiseCond .transportError (record [.busWrite [0x40, 0x00] .err] s))) ∨
    (a = .err ∧ s.cfg.terrFatal = true ∧
      handshakeAnswered a s = abortSession (raiseCond .transportError (record [.busWrite [0x40, 0x00] .err] s))) := by
  cases a with
  | count k =>
    by_cases h : k.val < 2
    · exact .inr (.inl ⟨k, rfl, h, handshakeAnswered_short s k h⟩)
    · have h : k.val = 2 := by have := k.isLt; omega
      exact .inl ⟨k, rfl, h, handshakeAnswered_full s k h⟩
  | err =>
    rw [handshakeAnswered_err]
    cases h : s.cfg.terrFatal
    · exact .inr (.inr (.inl ⟨rfl, rfl, afterError_logged _ _ (by simpa using h)⟩))
    · exact .inr (.inr (.inr ⟨rfl, rfl, afterError_fatal _ _ (by simpa using h)⟩))

/-- Everything an answered poll-request write can do (41_sequencer.md R94). -/
theorem pollAnswered_cases (a : WriteAnswer 1) (s : State) :
    (∃ k : Fin 2, a = .count k ∧ k.val = 1 ∧
      pollAnswered a s = goto .dlyData (record [.busWrite [0x00] (.count 1)] s)) ∨
    (∃ k : Fin 2, a = .count k ∧ k.val = 0 ∧
      pollAnswered a s = goto .dlyData (raiseCond .pollRequestFailed (record [.busWrite [0x00] (.count 0)] s))) ∨
    (a = .err ∧ s.cfg.terrFatal = false ∧
      pollAnswered a s =
        goto .dlyData (raiseCond .pollRequestFailed (raiseCond .transportError (record [.busWrite [0x00] .err] s)))) ∨
    (a = .err ∧ s.cfg.terrFatal = true ∧
      pollAnswered a s =
        abortSession (raiseCond .pollRequestFailed (raiseCond .transportError (record [.busWrite [0x00] .err] s)))) := by
  cases a with
  | count k =>
    by_cases h : k.val = 0
    · exact .inr (.inl ⟨k, rfl, h, pollAnswered_short s k h⟩)
    · have h : k.val = 1 := by have := k.isLt; omega
      exact .inl ⟨k, rfl, h, pollAnswered_full s k h⟩
  | err =>
    rw [pollAnswered_err]
    cases h : s.cfg.terrFatal
    · exact .inr (.inr (.inl ⟨rfl, rfl, afterError_logged _ _ (by simpa using h)⟩))
    · exact .inr (.inr (.inr ⟨rfl, rfl, afterError_fatal _ _ (by simpa using h)⟩))

/-- Everything an answered read can do (41_sequencer.md R96). -/
theorem readAnswered_cases (a : ReadAnswer) (s : State) :
    (∃ bs : RxBytes, a = .bytes bs ∧ bs.val.length = 6 ∧
      readAnswered a s = goto .decrpt (receiveBytes bs.val (record [.busRead 6 (.bytes bs.val)] s))) ∨
    (∃ bs : RxBytes, a = .bytes bs ∧ bs.val.length < 6 ∧
      readAnswered a s =
        goto .decrpt (raiseCond .frameIncomplete (receiveBytes bs.val (record [.busRead 6 (.bytes bs.val)] s)))) ∨
    (a = .err ∧ s.cfg.terrFatal = false ∧
      readAnswered a s = goto .decrpt (receiveError (raiseCond .transportError (record [.busRead 6 .err] s)))) ∨
    (a = .err ∧ s.cfg.terrFatal = true ∧
      readAnswered a s = abortSession (receiveError (raiseCond .transportError (record [.busRead 6 .err] s)))) := by
  cases a with
  | bytes bs =>
    by_cases h : bs.val.length < 6
    · exact .inr (.inl ⟨bs, rfl, h, readAnswered_short s bs h⟩)
    · have h : bs.val.length = 6 := by have := bs.2; simp [frameLen] at this; omega
      exact .inl ⟨bs, rfl, h, readAnswered_full s bs h⟩
  | err =>
    rw [readAnswered_err]
    cases h : s.cfg.terrFatal
    · exact .inr (.inr (.inl ⟨rfl, rfl, afterError_logged _ _ (by simpa using h)⟩))
    · exact .inr (.inr (.inr ⟨rfl, rfl, afterError_fatal _ _ (by simpa using h)⟩))

/-! The answered bus operations when errors are not fatal, each as one record update. -/

theorem handshakeAnswered_logged (a : WriteAnswer 2) (s : State) (h : s.cfg.terrFatal = false) :
    handshakeAnswered a s = { s with
      phase := .inc, status := s.status ||| raisedMask (handshakeConds a),
      trace := s.trace ++ .busWrite [0x40, 0x00] (writeResult a) :: handshakeConds a } := by
  obtain ⟨k, rfl, hk, e⟩ | ⟨k, rfl, hk, e⟩ | ⟨rfl, hk, e⟩ | ⟨rfl, hk, e⟩ := handshakeAnswered_cases a s <;> rw [e] <;>
    simp_all [goto, record, handshakeConds, writeResult, raiseCond, raisedMask, raisedStatus]

theorem pollAnswered_logged (a : WriteAnswer 1) (s : State) (h : s.cfg.terrFatal = false) :
    pollAnswered a s = { s with
      phase := .dlyData, status := s.status ||| raisedMask (pollConds a),
      trace := s.trace ++ .busWrite [0x00] (writeResult a) :: pollConds a } := by
  obtain ⟨k, rfl, hk, e⟩ | ⟨k, rfl, hk, e⟩ | ⟨rfl, hk, e⟩ | ⟨rfl, hk, e⟩ := pollAnswered_cases a s <;> rw [e] <;>
    simp_all [goto, record, pollConds, writeResult, raiseCond, raisedMask, raisedStatus, BitVec.or_assoc]

theorem readAnswered_logged (a : ReadAnswer) (s : State) (h : s.cfg.terrFatal = false) :
    readAnswered a s = { s with
      phase := .decrpt, status := s.status ||| raisedMask (readConds a), rxCount := rxCountAfterRead a,
      rxErr := decide (a = .err), frame := frameAfterRead s.frame a,
      trace := s.trace ++ .busRead 6 (readResult a) :: readConds a } := by
  obtain ⟨bs, rfl, hk, e⟩ | ⟨bs, rfl, hk, e⟩ | ⟨rfl, hk, e⟩ | ⟨rfl, hk, e⟩ := readAnswered_cases a s <;> rw [e] <;>
    simp_all [goto, record, readConds, readResult, raiseCond, raisedMask, raisedStatus, receiveBytes, receiveError,
      frameAfterRead, rxCountAfterRead]

/-- Everything the cancellation check can do (41_sequencer.md R99). -/
theorem cancellationChecked_cases (s : State) :
    (s.stopReq = true ∧ cancellationChecked s = abortSession s) ∨
    (s.stopReq = false ∧ cancellationChecked s = goto .hs s) := by
  cases h : s.stopReq
  · exact .inr ⟨rfl, cancellationChecked_clear s h⟩
  · exact .inl ⟨rfl, cancellationChecked_pending s h⟩

/-- Everything a start can do (42_session.md R121). -/
theorem startCommand_cases (s : State) :
    (s.run = true ∧ startCommand s = record [.hostStart] s) ∨
    (s.run = false ∧ startCommand s = { record [.hostStart] s with
      run := true, stopReq := false, cycleCounter := 0, status := 0, phase := .hs }) := by
  cases h : s.run
  · exact .inr ⟨rfl, startCommand_stopped s h⟩
  · exact .inl ⟨rfl, startCommand_running s h⟩

/-- Everything a stop can do (42_session.md R122). -/
theorem stopCommand_cases (s : State) :
    (s.run = true ∧ stopCommand s = { record [.hostStop] s with stopReq := true }) ∨
    (s.run = false ∧ stopCommand s = record [.hostStop] s) := by
  cases h : s.run
  · exact .inr ⟨rfl, stopCommand_stopped s h⟩
  · exact .inl ⟨rfl, stopCommand_running s h⟩

/-! The step, with answers in the scenario. -/

/-- A phase that issues no request steps past answers that are not its own (30_encoding.md R63). -/
theorem step_passes (s : State) (hi : s.phase ≠ .idle) (hb : issuesBusOp s = false)
    (ha : s.script.all isAnswer = true) : step s = exec s.phase.instr s := by
  cases hs : s.script with
  | nil => simp [step, fetch_empty s hs]
  | cons it rest =>
    have := fetchAnswer_passes s it hi hb
    cases it <;> simp_all [step, fetch, isAnswer]

/-- An answer of the phase's own shape lets the phase's operation run (30_encoding.md R63). -/
theorem step_fits (s : State) (it : Item) (rest : List Item) (hi : s.phase ≠ .idle) (hs : s.script = it :: rest)
    (ha : isAnswer it = true) (hf : answersPhase s.phase it = true) : step s = exec s.phase.instr s := by
  have := fetchAnswer_fits s it hi hf
  cases it <;> simp_all [step, fetch, isAnswer]

theorem runSteps_succ {s t : State} (k : Nat) (h : step s = .next t) : runSteps (k + 1) s = runSteps k t := by
  simp [runSteps, h]

theorem runSteps_add {s t : State} (j k : Nat) (h : runSteps j s = .next t) : runSteps (j + k) s = runSteps k t := by
  induction j generalizing s with
  | zero => simp [runSteps] at h; subst h; simp
  | succ j ih =>
    rw [Nat.add_right_comm, runSteps]
    rw [runSteps] at h
    cases hs : step s <;> simp [hs] at h ⊢
    exact ih h

/-! The functions on traces, on an appended trace. -/

theorem tracePos_append (p : TracePos) (xs ys : List Event) :
    tracePos p (xs ++ ys) = (tracePos p xs).bind (fun q => tracePos q ys) := by
  induction xs generalizing p with
  | nil => rfl
  | cons e es ih => simp only [List.cons_append, tracePos]; cases nextPos p e <;> simp [ih]

theorem sessionOpen_append (o : Bool) (xs ys : List Event) :
    sessionOpen o (xs ++ ys) = sessionOpen (sessionOpen o xs) ys := by
  induction xs generalizing o with
  | nil => rfl
  | cons e es ih => cases e <;> simp [sessionOpen, ih]

theorem quietTrace_append (o : Bool) (xs ys : List Event) :
    quietTrace o (xs ++ ys) = (quietTrace o xs && quietTrace (sessionOpen o xs) ys) := by
  induction xs generalizing o with
  | nil => rfl
  | cons e es ih => cases e <;> simp [sessionOpen, quietTrace, ih, Bool.and_assoc]

theorem handshakeWrites_append (xs ys : List Event) :
    handshakeWrites (xs ++ ys) = handshakeWrites xs + handshakeWrites ys := by
  induction xs with
  | nil => simp [handshakeWrites]
  | cons e es ih =>
    simp only [List.cons_append]
    by_cases h : ∃ r, e = .busWrite [0x40, 0x00] r
    · obtain ⟨r, rfl⟩ := h; simp [handshakeWrites, ih]; omega
    · rw [handshakeWrites, handshakeWrites, ih] <;> (intro a b; exact h ⟨a, b⟩)

end Sys2Proof.Machine
end

