-- ==== Sys2Proof/Laws/Clocked.lean ====
section
/-! SUPPORT. Clocked: for each operation of the clocked rendering what it can do, said once, and how the functions on raised
conditions read an appended list of events. -/

namespace Sys2Proof.Machine

open Sys2Proof

variable (f : ClockFreq) (inp : PortsIn) (s : State)

theorem raisedConds_append (xs ys : List Event) : raisedConds (xs ++ ys) = raisedConds xs ++ raisedConds ys := by
  induction xs with
  | nil => rfl
  | cons e es ih => cases e <;> simp [raisedConds, ih]

theorem raisedMask_append (xs ys : List Event) : raisedMask (xs ++ ys) = raisedMask xs ||| raisedMask ys := by
  induction xs with
  | nil => simp [raisedMask]
  | cons e es ih => cases e <;> simp [raisedMask, ih, BitVec.or_assoc]

/-- Everything one clock of a delay phase can do (10_state.md R23). -/
theorem delayClock_cases (d : DelayName) (next : Phase) :
    (s.timer ≤ 1 ∧ delayClock d next s = delayElapsed d next { s with timer := 0 }) ∨
    (1 < s.timer ∧ delayClock d next s = { s with timer := s.timer - 1 }) := by
  by_cases h : s.timer ≤ 1
  · exact .inl ⟨h, by simp [delayClock, h]⟩
  · exact .inr ⟨by omega, by simp [delayClock, h]⟩

/-- Everything one clock of DECRPT can do (30_encoding.md R56, 70_reset_and_hazards.md R175). -/
theorem reportClock_cases :
    (dropsSample s = true ∧ reportClock s = goto .dlyRest s) ∨
    (dropsSample s = false ∧ s.sinkBeat = 7 ∧
      reportClock s = goto .dlyRest (record (sampleEvents (decodeFrame s.frame)) { s with sinkBeat := 0 })) ∨
    (dropsSample s = false ∧ s.sinkBeat ≠ 7 ∧ reportClock s = { s with sinkBeat := s.sinkBeat + 1 }) := by
  cases hd : dropsSample s with
  | true => exact .inl ⟨rfl, by simp [reportClock, hd]⟩
  | false =>
    by_cases h : s.sinkBeat = 7
    · exact .inr (.inl ⟨rfl, h, by simp only [reportClock, hd, h]; rfl⟩)
    · exact .inr (.inr ⟨rfl, h, by simp only [reportClock, hd, h]; rfl⟩)

/-- Loading TIMER shows only in TIMER. -/
theorem transactionPart_loadTimer : transactionPart (loadTimer f s) = transactionPart s := by
  unfold loadTimer
  split <;> rfl

theorem loadTimer_trace : (loadTimer f s).trace = s.trace := by
  unfold loadTimer
  split <;> rfl

/-- A clock without a command changes nothing for the commands. -/
theorem commandsClock_none (h1 : inp.cmdStart = false) (h2 : inp.cmdStop = false) : commandsClock inp s = s := by
  simp [commandsClock, commandWord, h1, h2]

/-- The commands of a clock, as the events they record. -/
theorem commandsClock_trace : (commandsClock inp s).trace =
    s.trace ++ ((if inp.cmdStop then [Event.hostStop] else []) ++ (if inp.cmdStart then [Event.hostStart] else [])) := by
  have hStart : ∀ t : State, (startCommand t).trace = t.trace ++ [.hostStart] := by
    intro t; obtain ⟨-, e⟩ | ⟨-, e⟩ := startCommand_cases t <;> rw [e] <;> rfl
  have hStop : ∀ t : State, (stopCommand t).trace = t.trace ++ [.hostStop] := by
    intro t; obtain ⟨-, e⟩ | ⟨-, e⟩ := stopCommand_cases t <;> rw [e] <;> rfl
  cases h1 : inp.cmdStop <;> cases h2 : inp.cmdStart <;> simp [commandsClock, commandWord, h1, h2, hStart, hStop]

/-- An edge without reset that finds the sequencer busy: the commands, then the sequencer's move, then the pulses. -/
theorem clockEdge_busy (h : inp.rst = false) (hp : s.phase ≠ .idle) :
    clockEdge f inp s = { sequencerClock f inp (commandsClock inp s) with
      condPulses := pulsesAfter (commandsClock inp s) (sequencerClock f inp (commandsClock inp s)) } := by
  simp only [clockEdge, h, hp, if_false]
  rfl

/-- An edge without reset and command is the sequencer's move and the pulses. -/
theorem clockEdge_quiet (h : quietEdge inp = true) :
    clockEdge f inp s = { sequencerClock f inp s with condPulses := pulsesAfter s (sequencerClock f inp s) } := by
  simp only [quietEdge, Bool.and_eq_true, Bool.not_eq_true'] at h
  obtain ⟨⟨h1, h2⟩, h3⟩ := h
  have hc := commandsClock_none inp s h2 h3
  by_cases hp : s.phase = .idle
  · have e : sequencerClock f inp s = s := by simp [sequencerClock, hp]
    simp only [clockEdge, h1, hc, hp, e, if_true]
    rfl
  · rw [clockEdge_busy f inp s h1 hp, hc]

end Sys2Proof.Machine
end

