-- ==== Sys2Proof/Laws/PerInstr.lean ====
section
/-! SUPPORT. PerInstr: one lemma per operation about its word: it is well formed and as wide as spec/opcode_table.json says. -/

namespace Sys2Proof.Laws.EncodeWidth

open Sys2Proof

/-- The width spec/opcode_table.json gives an operation's row. -/
def tableWidth : Instr → Nat
  | .idle => 4
  | .hs => 4
  | .inc => 4
  | .dlyCmd => 4
  | .poll => 4
  | .dlyData => 4
  | .rd6 => 4
  | .decrpt => 4
  | .dlyRest => 4
  | .chk => 4
  | .start => 2
  | .stop => 2
  | .deobf _ => 8
  | .deobf6 _ => 48
  | .stickX _ => 48
  | .stickY _ => 48
  | .accelX _ => 48
  | .accelY _ => 48
  | .accelZ _ => 48
  | .buttonC _ => 48
  | .buttonZ _ => 48
  | .decode _ => 48

/-- The operation is well formed, and so is its word, which has the width of the operation's table row. -/
def Statement (i : Instr) : Prop :=
  i.wellFormed = true ∧ (encode i).wellFormed = true ∧ (encode i).width = tableWidth i

theorem idle : Statement .idle := ⟨rfl, rfl, rfl⟩
theorem hs : Statement .hs := ⟨rfl, rfl, rfl⟩
theorem inc : Statement .inc := ⟨rfl, rfl, rfl⟩
theorem dlyCmd : Statement .dlyCmd := ⟨rfl, rfl, rfl⟩
theorem poll : Statement .poll := ⟨rfl, rfl, rfl⟩
theorem dlyData : Statement .dlyData := ⟨rfl, rfl, rfl⟩
theorem rd6 : Statement .rd6 := ⟨rfl, rfl, rfl⟩
theorem decrpt : Statement .decrpt := ⟨rfl, rfl, rfl⟩
theorem dlyRest : Statement .dlyRest := ⟨rfl, rfl, rfl⟩
theorem chk : Statement .chk := ⟨rfl, rfl, rfl⟩
theorem start : Statement .start := ⟨rfl, rfl, rfl⟩
theorem stop : Statement .stop := ⟨rfl, rfl, rfl⟩
theorem deobf (b : Byte) : Statement (.deobf b) := ⟨rfl, rfl, rfl⟩
theorem deobf6 (f : Frame) : Statement (.deobf6 f) := ⟨rfl, rfl, rfl⟩
theorem stickX (d : DFrame) : Statement (.stickX d) := ⟨rfl, rfl, rfl⟩
theorem stickY (d : DFrame) : Statement (.stickY d) := ⟨rfl, rfl, rfl⟩
theorem accelX (d : DFrame) : Statement (.accelX d) := ⟨rfl, rfl, rfl⟩
theorem accelY (d : DFrame) : Statement (.accelY d) := ⟨rfl, rfl, rfl⟩
theorem accelZ (d : DFrame) : Statement (.accelZ d) := ⟨rfl, rfl, rfl⟩
theorem buttonC (d : DFrame) : Statement (.buttonC d) := ⟨rfl, rfl, rfl⟩
theorem buttonZ (d : DFrame) : Statement (.buttonZ d) := ⟨rfl, rfl, rfl⟩
theorem decode (f : Frame) : Statement (.decode f) := ⟨rfl, rfl, rfl⟩

end Sys2Proof.Laws.EncodeWidth
end

