-- ==== Sys2Proof/Tests/Slice0.lean ====
section
/-! SUPPORT. Slice0: the checks of WellFormed on ill-formed terms, words written out from the spec's encodings, vectors of
95_test_vectors.md with their printed results, and for each statement with hypotheses a state and operands that meet them. -/

namespace Sys2Proof.Tests

open Sys2Proof Sys2Proof.Machine

/-! ## Helpers -/

/-- The next state an outcome answers, if it answers one. -/
def after : Host.Outcome State Fault Refusal → Option State
  | .next t => some t
  | .fault _ => none
  | .refused _ => none

/-- The refusal an outcome answers, if it answers one. -/
def refusal : Host.Outcome State Fault Refusal → Option Refusal
  | .next _ => none
  | .fault _ => none
  | .refused r => some r

/-- Six bytes as a frame, first byte first. -/
def frm (b0 b1 b2 b3 b4 b5 : Byte) : Frame := ⟨b0, b1, b2, b3, b4, b5⟩

/-- The source's captured frame (95_test_vectors.md S1). -/
def captured : Frame := frm 0x14 0x72 0x0A 0x0A 0x9A 0x0A

/-- A session at phase `p` with a scenario, everything else as after reset. -/
def sessionAt (p : Phase) (script : List Item) : State :=
  { State.reset with phase := p, run := decide (p ≠ .idle), script := script }

/-- Parameters with a fatal `Err`. -/
def fatalCfg : Config := { Config.default with terrFatal := true }

/-- Parameters with the other policy. -/
def dropCfg : Config := { Config.default with partialPolicy := .dropSample }

/-- Read bytes of the lengths the tests use. -/
def bytes4 : RxBytes := ⟨[0xB0, 0xB1, 0xB2, 0xB3], by decide⟩
def bytes6 : RxBytes := ⟨[0xB0, 0xB1, 0xB2, 0xB3, 0xB4, 0xB5], by decide⟩
def bytes0 : RxBytes := ⟨[], by decide⟩
def bytes5 : RxBytes := ⟨[0xB0, 0xB1, 0xB2, 0xB3, 0xB4], by decide⟩

/-- All input ports at 0. -/
def idlePorts : PortsIn :=
  { rst := false, draw := captured, cmdStart := false, cmdStop := false, trRspValid := false, trRspErr := false,
    trRspCount := 0, trRspData := 0 }

/-! ## WellFormed refuses -/

/-- 00_scope.md R6: `CW >= 4`. -/
theorem test_cw_three_refused :
    ({ Config.default with cw := 3 } : Config).wellFormed = false ∧
      ({ Config.default with cw := 4 } : Config).wellFormed = true := by decide
/-- 00_scope.md R6: `F_CLK >= 1000`, a number. -/
theorem test_fclk_below_1000_refused :
    (ClockFreq.mk 999 1).wellFormed = false ∧ (ClockFreq.mk 1000 0).wellFormed = false ∧
      (ClockFreq.mk 1000 1).wellFormed = true := by decide
/-- 60_exceptions.md R136; 00_scope.md R6. -/
theorem test_other_bus_address_refused :
    buildInstance 0x53 Config.default = .error (.invalidBusAddress 0x53) ∧
      buildInstance 0x52 { Config.default with cw := 3 } = .error (.counterTooNarrow 3) ∧
      buildInstance 0x52 Config.default = .ok Config.default := ⟨rfl, rfl, rfl⟩
/-- 30_encoding.md R51, R60. -/
theorem test_phase_code_ten_refused :
    (OpWord.ph 10).wellFormed = false ∧ (OpWord.ph 15).wellFormed = false ∧ (OpWord.ph 9).wellFormed = true := by decide
/-- 30_encoding.md R55: no command, and two commands. -/
theorem test_cmd_none_and_both_refused :
    (OpWord.cmd 0b00).wellFormed = false ∧ (OpWord.cmd 0b11).wellFormed = false ∧
      (OpWord.cmd 0b01).wellFormed = true := by decide
/-- 20_memory.md R33, 30_encoding.md R61. -/
theorem test_count_above_request_refused :
    countWithinRequest 2 3 = false ∧ countWithinRequest 6 7 = false ∧ countWithinRequest 2 2 = true := by decide

/-! ## Words written out from the spec's encodings (30_encoding.md R51, R52, R55; spec/opcode_table.json) -/

theorem test_decode_idle : decode (.ph 0b0000) = .ok .idle := rfl
theorem test_decode_hs : decode (.ph 0b0001) = .ok .hs := rfl
theorem test_decode_inc : decode (.ph 0b0010) = .ok .inc := rfl
theorem test_decode_dlyCmd : decode (.ph 0b0011) = .ok .dlyCmd := rfl
theorem test_decode_poll : decode (.ph 0b0100) = .ok .poll := rfl
theorem test_decode_dlyData : decode (.ph 0b0101) = .ok .dlyData := rfl
theorem test_decode_rd6 : decode (.ph 0b0110) = .ok .rd6 := rfl
theorem test_decode_decrpt : decode (.ph 0b0111) = .ok .decrpt := rfl
theorem test_decode_dlyRest : decode (.ph 0b1000) = .ok .dlyRest := rfl
theorem test_decode_chk : decode (.ph 0b1001) = .ok .chk := rfl
theorem test_decode_reserved : decode (.ph 0b1010) = .error (.reservedPhase 10) ∧
    decode (.ph 0b1111) = .error (.reservedPhase 15) := ⟨rfl, rfl⟩
theorem test_decode_start : decode (.cmd 0b01) = .ok .start := rfl
theorem test_decode_stop : decode (.cmd 0b10) = .ok .stop := rfl
theorem test_decode_no_and_two_commands :
    decode (.cmd 0b00) = .error .noCommand ∧ decode (.cmd 0b11) = .error .twoCommands := ⟨rfl, rfl⟩
theorem test_decode_deobf : decode (.byte 0b00010100) = .ok (.deobf 0x14) := rfl
/-- The frame 14 72 0A 0A 9A 0A is 0x0A9A0A0A7214 (95_test_vectors.md P1). -/
theorem test_decode_deobf6 : decode (.fr48 .deobf6 0x0A9A0A0A7214) = .ok (.deobf6 captured) := rfl
theorem test_decode_stickX :
    decode (.fr48 .stickX 0x34A434347C1A) = .ok (.stickX (frm 0x1A 0x7C 0x34 0x34 0xA4 0x34)) := rfl
theorem test_decode_stickY :
    decode (.fr48 .stickY 0x34A434347C1A) = .ok (.stickY (frm 0x1A 0x7C 0x34 0x34 0xA4 0x34)) := rfl
theorem test_decode_accelX :
    decode (.fr48 .accelX 0x0C0000FF0000) = .ok (.accelX (frm 0x00 0x00 0xFF 0x00 0x00 0x0C)) := rfl
theorem test_decode_accelY :
    decode (.fr48 .accelY 0x3000FF000000) = .ok (.accelY (frm 0x00 0x00 0x00 0xFF 0x00 0x30)) := rfl
theorem test_decode_accelZ :
    decode (.fr48 .accelZ 0xC0FF00000000) = .ok (.accelZ (frm 0x00 0x00 0x00 0x00 0xFF 0xC0)) := rfl
theorem test_decode_buttonC : decode (.fr48 .buttonC 0x020000000000) = .ok (.buttonC (frm 0 0 0 0 0 0x02)) := rfl
theorem test_decode_buttonZ : decode (.fr48 .buttonZ 0x010000000000) = .ok (.buttonZ (frm 0 0 0 0 0 0x01)) := rfl
theorem test_decode_decode : decode (.fr48 .decode 0x0A9A0A0A7214) = .ok (.decode captured) := rfl
/-- The opcode table's words, at the widths log 5 fixes. -/
theorem test_table_words :
    decodeTableWord 4 0x9 = some .chk ∧ decodeTableWord 8 0x9 = some .chk ∧ decodeTableWord 8 0xA = none ∧
      decodeTableWord 2 0x1 = some .start ∧ decodeTableWord 2 0x2 = some .stop ∧ decodeTableWord 2 0x3 = none ∧
      decodeTableWord 8 0x14 = some (.deobf 0x14) ∧ decodeTableWord 48 0x0A9A0A0A7214 = some (.decode captured) ∧
      decodeTableWord 16 0 = none := by decide

/-! ## Vectors of 95_test_vectors.md -/

/-- V2: zero, a fixed point, the smallest sum that wraps, the largest intermediate value, the largest that does not wrap. -/
theorem test_V2_deobf :
    [deobf 0x00, deobf 0x17, deobf 0xFE, deobf 0xE8, deobf 0xFF, deobf 0x14] = [0x2E, 0x17, 0x00, 0x16, 0xFF, 0x1A] := by
  decide
theorem test_deobf_shown : (after (exec (.deobf 0xE7) State.reset)).map (·.decoderOut) = some (.byte 0x07) := by decide
/-- V20. -/
theorem test_V20_deobf6 :
    (after (exec (.deobf6 captured) State.reset)).map (·.decoderOut) =
      some (.frame (frm 0x1A 0x7C 0x34 0x34 0xA4 0x34)) := by decide
/-- V37. -/
theorem test_V37_stickX :
    (after (exec (.stickX (frm 0x00 0xFF 0x12 0x34 0x56 0x78)) State.reset)).map (·.decoderOut) = some (.stick 0) := by
  decide
theorem test_V37_stickY :
    (after (exec (.stickY (frm 0x00 0xFF 0x12 0x34 0x56 0x78)) State.reset)).map (·.decoderOut) = some (.stick 255) := by
  decide
/-- V32, V33, V34. -/
theorem test_V32_accelX :
    (after (exec (.accelX (frm 0 0 0x80 0 0 0x04)) State.reset)).map (·.decoderOut) = some (.accel 513) := by decide
theorem test_V33_accelY :
    (after (exec (.accelY (frm 0 0 0 0x01 0 0x30)) State.reset)).map (·.decoderOut) = some (.accel 7) := by decide
theorem test_V34_accelZ :
    (after (exec (.accelZ (frm 0 0 0 0 0x7F 0x80)) State.reset)).map (·.decoderOut) = some (.accel 510) := by decide
/-- V35, V36. -/
theorem test_V35_buttonC :
    (after (exec (.buttonC (frm 0 0 0 0 0 0x02)) State.reset)).map (·.decoderOut) = some (.button 1) ∧
      (after (exec (.buttonC (frm 0 0 0 0 0 0xFD)) State.reset)).map (·.decoderOut) = some (.button 0) := by decide
theorem test_V35_buttonZ :
    (after (exec (.buttonZ (frm 0 0 0 0 0 0x01)) State.reset)).map (·.decoderOut) = some (.button 1) ∧
      (after (exec (.buttonZ (frm 0 0 0 0 0 0xFC)) State.reset)).map (·.decoderOut) = some (.button 0) := by decide
/-- V20 and V26: the source's frame, and mid-range values with all three pairs of low bits different. -/
theorem test_V20_decode :
    (after (exec (.decode captured) State.reset)).map (·.decoderOut) =
      some (.sample ⟨26, 124, 209, 211, 656, 0, 0⟩) := by decide
theorem test_V26_V28_decode :
    decodeFrame (frm 0x7E 0x7E 0x7F 0x7E 0x84 0xC7) = ⟨128, 128, 509, 514, 683, 1, 1⟩ ∧
      decodeFrame (frm 0xFD 0xFC 0xFB 0xFA 0xF9 0x13) = ⟨1, 2, 14, 17, 20, 1, 1⟩ := by decide

/-- V51: a short handshake. -/
theorem test_V51_hs :
    (after (exec .hs (sessionAt .hs [.w2 (.count 1)]))).map (fun t => (t.phase, t.status, t.trace)) =
      some (.inc, 0b0010, [.busWrite [0x40, 0x00] (.count 1), .cond .handshakeIncomplete]) := by decide
/-- V54: a fatal error with a stop pending, counter 20. -/
theorem test_V54_hs :
    (after (exec .hs { sessionAt .hs [.w2 .err] with cfg := fatalCfg, stopReq := true, cycleCounter := 20 })).map
        (fun t => ((t.run, t.stopReq, t.phase), t.status, t.cycleCounter, t.trace)) =
      some ((false, false, .idle), 0b0001, 20,
        [.busWrite [0x40, 0x00] .err, .cond .transportError, .stopped]) := by decide
/-- V59, V60: the counter wraps at its width. -/
theorem test_V59_inc :
    (after (exec .inc { sessionAt .inc [] with cycleCounter := 4294967295 })).map (fun t => (t.cycleCounter, t.phase)) =
      some (0, .dlyCmd) := by decide
theorem test_V60_inc :
    (after (exec .inc { sessionAt .inc [] with cfg := { Config.default with cw := 4 }, cycleCounter := 15 })).map
      (·.cycleCounter) = some 0 := by decide
/-- V61: a pending stop does not shorten the delay. -/
theorem test_V61_dlyCmd :
    (after (exec .dlyCmd { sessionAt .dlyCmd [] with stopReq := true })).map (fun t => (t.phase, t.stopReq, t.trace)) =
      some (.poll, true, [.delay .settleCmd]) := by decide
/-- V63, V64. -/
theorem test_V63_poll :
    (after (exec .poll (sessionAt .poll [.w1 (.count 0)]))).map (fun t => (t.phase, t.status, t.trace)) =
      some (.dlyData, 0b0100, [.busWrite [0x00] (.count 0), .cond .pollRequestFailed]) := by decide
theorem test_V64_poll :
    (after (exec .poll (sessionAt .poll [.w1 .err]))).map (fun t => (t.phase, t.status, t.trace)) =
      some (.dlyData, 0b0101, [.busWrite [0x00] .err, .cond .transportError, .cond .pollRequestFailed]) := by decide
/-- V66. -/
theorem test_V66_dlyData :
    (after (exec .dlyData (sessionAt .dlyData []))).map (fun t => (t.phase, t.trace)) =
      some (.rd6, [.delay .settleData]) := by decide
/-- V68, V71. -/
theorem test_V68_rd6 :
    (after (exec .rd6 { sessionAt .rd6 [.r6 (.bytes bytes4)] with frame := frm 0xA0 0xA1 0xA2 0xA3 0xA4 0xA5 })).map
        (fun t => (t.frame, t.rxCount, t.rxErr, t.status, t.phase)) =
      some (frm 0xB0 0xB1 0xB2 0xB3 0xA4 0xA5, 4, false, 0b1000, .decrpt) := by decide
theorem test_V71_rd6 :
    (after (exec .rd6 { sessionAt .rd6 [.r6 .err] with frame := captured, rxCount := 6 })).map
        (fun t => ((t.frame, t.rxCount, t.rxErr), t.status, t.phase, t.trace)) =
      some ((captured, 0, true), 0b0001, .decrpt, [.busRead 6 .err, .cond .transportError]) := by decide
/-- V74, V75: a short read under the two policies. -/
theorem test_V74_decrpt :
    (after (exec .decrpt { sessionAt .decrpt [] with frame := frm 0xFE 0xFE 0xFF 0xFE 0x9A 0x0A, rxCount := 4 })).map
        (·.trace) =
      some [.sink .axis 0 0, .sink .axis 1 0, .sink .axis 2 1021, .sink .axis 3 3, .sink .axis 4 656,
        .sink .button 5 0, .sink .button 6 0, .sink .sync 7 0] := by decide
theorem test_V75_decrpt :
    (after (exec .decrpt { sessionAt .decrpt [] with cfg := dropCfg, rxCount := 4 })).map (fun t => (t.phase, t.trace)) =
      some (.dlyRest, []) := by decide
/-- V78. -/
theorem test_V78_dlyRest :
    (after (exec .dlyRest (sessionAt .dlyRest []))).map (fun t => (t.phase, t.trace)) =
      some (.chk, [.delay .rest]) := by decide
/-- V79, V80. -/
theorem test_V79_chk :
    (after (exec .chk (sessionAt .chk []))).map (fun t => (t.phase, t.run, t.trace)) = some (.hs, true, []) := by decide
theorem test_V80_chk :
    (after (exec .chk { sessionAt .chk [] with stopReq := true, cycleCounter := 7, status := 0b1000 })).map
        (fun t => ((t.run, t.stopReq, t.phase), t.cycleCounter, t.status, t.trace)) =
      some ((false, false, .idle), 7, 0b1000, [.stopped]) := by decide
/-- V81. -/
theorem test_V81_idle : after (exec .idle State.reset) = some State.reset := by decide
/-- V91, V92. -/
theorem test_V91_start :
    (after (exec .start { State.reset with cycleCounter := 37, status := 0b1000, frame := captured, rxCount := 4 })).map
        (fun t => (t.run, t.phase, t.cycleCounter, t.status, t.frame, t.rxCount)) =
      some (true, .hs, 0, 0, captured, 4) := by decide
theorem test_V92_start :
    after (exec .start { sessionAt .dlyData [] with cycleCounter := 3, status := 0b0010 }) =
      some { sessionAt .dlyData [] with cycleCounter := 3, status := 0b0010, trace := [.hostStart] } := by decide
/-- 42_session.md R122, its example and corner case (a). -/
theorem test_stop_running :
    after (exec .stop (sessionAt .dlyData [])) =
      some { sessionAt .dlyData [] with stopReq := true, trace := [.hostStop] } := by decide
theorem test_stop_stopped :
    after (exec .stop State.reset) = some { State.reset with trace := [.hostStop] } := by decide

/-- P8: the read is never answered; a step leaves the state as it is. -/
theorem test_P8_stuck : after (step (sessionAt .rd6 [])) = some (sessionAt .rd6 []) := by decide
/-- P1: the request words and the sink words. -/
theorem test_P1_request_words :
    [outstandingRequest (sessionAt .hs []), outstandingRequest (sessionAt .poll []),
      outstandingRequest (sessionAt .rd6 []), outstandingRequest (sessionAt .chk [])] =
      [some 0x20040, some 0x10000, some 0xE0000, none] := by decide
theorem test_P1_sink_words :
    (sampleEvents (decodeFrame captured)).map sinkWord =
      [some 0x001A, some 0x047C, some 0x08D1, some 0x0CD3, some 0x1290, some 0x3400, some 0x3800, some 0x5C00] := by
  decide
/-- Section 7: the tick counts at 1000 Hz, 32768 Hz and 1 MHz. -/
theorem test_ticks :
    [DelayName.settleCmd, .settleData, .rest].map (ticks ⟨1000, 1⟩) = [1, 1, 14] ∧
      [DelayName.settleCmd, .settleData, .rest].map (ticks ⟨32768, 1⟩) = [33, 33, 459] ∧
      [DelayName.settleCmd, .settleData, .rest].map (ticks ⟨1000000, 1⟩) = [1000, 1000, 14000] := by decide
/-- V4: `OBF`, for building frames. -/
theorem test_V4_obf : [obf 0x00, obf 0x0C, obf 0x80, obf 0xFF] = [0xFE, 0xE2, 0x7E, 0xFF] := by decide
/-- `withFetchWord`: the next step runs the word. -/
theorem test_placed_words :
    (after (step (State.reset.withFetchWord 8 0x6))).map (·.phase) = some .decrpt ∧
      (after (step (State.reset.withFetchWord 2 0x1))).map (·.run) = some true ∧
      (after (step (State.reset.withFetchWord 48 0x0A9A0A0A7214))).map (·.decoderOut) =
        some (.sample ⟨26, 124, 209, 211, 656, 0, 0⟩) := by decide

/-! ## Witnesses: states and operands that meet the hypotheses of the statements, clause by clause -/

theorem witness_DecodeEncodeGivesInstr :
    (Instr.decode captured).wellFormed = true ∧ Instr.idle.wellFormed = true ∧ Instr.stop.wellFormed = true := by decide
theorem witness_EncodeDecodeGivesWord :
    (OpWord.ph 0).wellFormed = true ∧ (OpWord.ph 9).wellFormed = true ∧ (OpWord.cmd 0b10).wellFormed = true ∧
      (OpWord.byte 0xFF).wellFormed = true ∧ (OpWord.fr48 .accelZ 0xFFFFFFFFFFFF).wellFormed = true := by decide
theorem witness_ReservedPhaseCodeLandsIdle : 10 ≤ (10 : BitVec 4).toNat ∧ 10 ≤ (15 : BitVec 4).toNat := by decide
/-- Byte 5, bit 7: the last bit of the frame. -/
theorem witness_FrameWordBytePositions :
    (7 : Nat) < 8 ∧ (frm 0 0 0 0 0 0x80).toBits.getLsbD 47 = true ∧ (Frame.ofBits 0x800000000000).b5 = 0x80 := by decide
theorem witness_RaiseRecordsCondition : (3 : Nat) < 4 ∧ (condCode .frameIncomplete).toNat = 3 := by decide

/-- The hypotheses of the fatal half, for the three bus operations. -/
theorem witness_FatalErrorAborts_fatal :
    let s := { sessionAt .hs [.w2 .err] with cfg := fatalCfg }
    let p := { sessionAt .poll [.w1 .err] with cfg := fatalCfg }
    let r := { sessionAt .rd6 [.r6 .err] with cfg := fatalCfg }
    (s.cfg.terrFatal = true ∧ s.cycleCounter % 10 = 0 ∧ s.script = .w2 .err :: []) ∧
      (p.cfg.terrFatal = true ∧ p.script = .w1 .err :: []) ∧ (r.cfg.terrFatal = true ∧ r.script = .r6 .err :: []) := by
  decide
/-- The hypotheses of the other half, the next state among them. -/
theorem witness_FatalErrorAborts_logged :
    ((sessionAt .hs [.w2 .err]).cfg.terrFatal = false ∧ (sessionAt .hs [.w2 .err]).cycleCounter % 10 = 0 ∧
        ∃ t, exec .hs (sessionAt .hs [.w2 .err]) = .next t) ∧
      ((sessionAt .poll [.w1 .err]).cfg.terrFatal = false ∧ ∃ t, exec .poll (sessionAt .poll [.w1 .err]) = .next t) ∧
      ((sessionAt .rd6 [.r6 .err]).cfg.terrFatal = false ∧ ∃ t, exec .rd6 (sessionAt .rd6 [.r6 .err]) = .next t) :=
  ⟨⟨rfl, rfl, _, rfl⟩, ⟨rfl, _, rfl⟩, ⟨rfl, _, rfl⟩⟩

/-- Counter values 9 (no request) and 0 (request); counts 2, 1 and 0; an error that is fatal or not. -/
theorem witness_HandshakePhaseResult :
    ({ sessionAt .hs [] with cycleCounter := 9 } : State).cycleCounter % 10 ≠ 0 ∧
      (sessionAt .hs [.w2 (.count 2)]).script = .w2 (.count 2) :: [] ∧ (2 : Fin 3).val = 2 ∧
      (sessionAt .hs [.w2 (.count 1)]).script = .w2 (.count 1) :: [] ∧ (1 : Fin 3).val < 2 ∧ (0 : Fin 3).val < 2 ∧
      (sessionAt .hs [.w2 .err]).script = .w2 .err :: [] ∧ (sessionAt .hs [.w2 .err]).cycleCounter % 10 = 0 ∧
      (sessionAt .hs [.w2 .err]).cfg.terrFatal = false ∧ fatalCfg.terrFatal = true := by decide
theorem witness_PollPhaseResult :
    (sessionAt .poll [.w1 (.count 1)]).script = .w1 (.count 1) :: [] ∧ (1 : Fin 2).val = 1 ∧
      (sessionAt .poll [.w1 (.count 0)]).script = .w1 (.count 0) :: [] ∧ (0 : Fin 2).val = 0 ∧
      (sessionAt .poll [.w1 .err]).script = .w1 .err :: [] ∧ (sessionAt .poll [.w1 .err]).cfg.terrFatal = false ∧
      fatalCfg.terrFatal = true := by decide
/-- Reads of six, five and no bytes, and an error. -/
theorem witness_ReadPhaseResult :
    (sessionAt .rd6 [.r6 (.bytes bytes6)]).script = .r6 (.bytes bytes6) :: [] ∧ bytes6.val.length = 6 ∧
      (sessionAt .rd6 [.r6 (.bytes bytes5)]).script = .r6 (.bytes bytes5) :: [] ∧ bytes5.val.length < 6 ∧
      bytes0.val.length < 6 ∧ (sessionAt .rd6 [.r6 .err]).script = .r6 .err :: [] ∧
      (sessionAt .rd6 [.r6 .err]).cfg.terrFatal = false ∧ fatalCfg.terrFatal = true := by decide
/-- Dropped after five bytes and after an error; sent after six bytes, and after five under the other policy. -/
theorem witness_ReportPhaseResult :
    (dropCfg.partialPolicy = .dropSample ∧ (5 : BitVec 3).toNat < 6) ∧
      (({ sessionAt .decrpt [] with cfg := dropCfg, rxErr := true } : State).rxErr = true) ∧
      ¬ (dropCfg.partialPolicy = .dropSample ∧ (false = true ∨ (6 : BitVec 3).toNat < 6)) ∧
      ¬ (Config.default.partialPolicy = .dropSample) := by decide
theorem witness_CheckPhaseResult :
    ({ sessionAt .chk [] with stopReq := true } : State).stopReq = true ∧ (sessionAt .chk []).stopReq = false := by decide
theorem witness_IdlePhaseResult : State.reset.phase = .idle ∧ State.reset.script = [] := by decide
/-- Stopped; running; running with a stop pending. -/
theorem witness_StartCommandResult :
    State.reset.run = false ∧ (sessionAt .poll []).run = true ∧
      ({ sessionAt .poll [] with stopReq := true } : State).run = true := by decide
theorem witness_StopCommandResult : (sessionAt .poll []).run = true ∧ State.reset.run = false := by decide
/-- Idle, with and without a START; running, in a clock of CHK with a stop pending. -/
theorem witness_BothCommandsInOneClock :
    idlePorts.rst = false ∧ (State.reset.phase = .idle ∧ State.reset.run = false) ∧
      ({ idlePorts with cmdStart := true, cmdStop := true } : PortsIn).cmdStart = true ∧
      ({ idlePorts with cmdStop := true } : PortsIn).cmdStart = false ∧
      ({ sessionAt .chk [] with stopReq := true } : State).phase ≠ .idle ∧
      ({ sessionAt .chk [] with stopReq := true } : State).run = true := by decide
/-- 70_reset_and_hazards.md R172: a START in the clock in which CHK acts on a stop meets `running` at 1 and is lost. -/
theorem test_start_in_stopping_clock_is_lost :
    (clockEdge ⟨1000, 1⟩ { idlePorts with cmdStart := true } { sessionAt .chk [] with stopReq := true }).run = false ∧
      (clockEdge ⟨1000, 1⟩ { idlePorts with cmdStart := true } { sessionAt .chk [] with stopReq := true }).trace =
        [.hostStart, .stopped] := by decide
/-- A command in the fourth clock of a Sample stands in the trace before the whole Sample (41_sequencer.md R90). -/
theorem test_command_inside_burst :
    ((clockEdges ⟨1000, 1⟩ [{ idlePorts with cmdStop := true }, idlePorts, idlePorts, idlePorts, idlePorts]
        { sessionAt .decrpt [] with sinkBeat := 3 }).trace.take 2) = [.hostStop, .sink .axis 0 46] := by decide

/-- An empty scenario; a fitting answer; an answer that a phase without a request passes by. -/
theorem witness_StepRunsSelectedOperation :
    (decode (.ph Phase.rd6.code) = .ok .rd6 ∧ (sessionAt .rd6 []).script = []) ∧
      ((sessionAt .rd6 [.r6 .err]).script = .r6 .err :: [] ∧ isAnswer (.r6 .err) = true ∧
        (sessionAt .rd6 [.r6 .err]).phase ≠ .idle ∧
        (issuesBusOp (sessionAt .rd6 [.r6 .err]) = true → answersPhase .rd6 (.r6 .err) = true)) ∧
      (issuesBusOp (sessionAt .inc [.w1 .err]) = false ∧ (sessionAt .inc [.w1 .err]).phase ≠ .idle) ∧
      ((sessionAt .dlyCmd [.advance, .stop]).script = .advance :: [.stop] ∧
        (sessionAt .dlyCmd [.advance, .stop]).phase ≠ .idle ∧ issuesBusOp (sessionAt .dlyCmd [.advance, .stop]) = false) :=
  ⟨⟨rfl, rfl⟩, ⟨rfl, rfl, by decide, fun _ => rfl⟩, by decide, by decide⟩
/-- 41_sequencer.md R90: from reset, a STOP between DLY_CMD and POLL, and a START between CHK and HS. -/
theorem test_command_between_any_two_steps :
    (after (runSteps 5 { State.reset with script := [.start, .w2 (.count 2), .advance, .advance, .stop] })).map
        (fun t => (t.phase, t.stopReq, t.trace)) =
      some (.poll, true, [.hostStart, .busWrite [0x40, 0x00] (.count 2), .delay .settleCmd, .hostStop]) ∧
    (after (runSteps 2 (sessionAt .chk [.advance, .start]))).map (fun t => (t.phase, t.trace)) =
      some (.hs, [.hostStart]) := by decide
theorem witness_StepRunsScenarioHead :
    (sessionAt .idle [.start]).script = .start :: [] ∧ (sessionAt .poll [.stop]).script = .stop :: [] ∧
      decode (.byte 0x14) = .ok (.deobf 0x14) ∧
      decode (.fr48 .buttonZ 0x010000000000) = .ok (.buttonZ (frm 0 0 0 0 0 0x01)) := ⟨rfl, rfl, rfl, rfl⟩
theorem witness_ResetStepResult :
    (sessionAt .rd6 [.reset captured, .start]).script = .reset captured :: [.start] := rfl
theorem witness_WaitItemStep :
    (sessionAt .idle [.wait]).phase = .idle ∧
      ((sessionAt .chk [.wait]).phase ≠ .idle ∧ issuesBusOp (sessionAt .chk [.wait]) = false) ∧
      issuesBusOp (sessionAt .poll [.wait]) = true ∧ (sessionAt .idle [.advance]).phase = .idle ∧
      issuesBusOp (sessionAt .poll [.advance]) = true := by decide
theorem witness_MalformedScenarioRefused :
    (isAnswer (.w1 .err) = true ∧ (sessionAt .idle [.w1 .err]).phase = .idle) ∧
      (issuesBusOp (sessionAt .rd6 [.w1 .err]) = true ∧ answersPhase .rd6 (.w1 .err) = false) := by decide
theorem test_wrong_shape_refused :
    refusal (step (sessionAt .rd6 [.w1 .err])) = some (.malformedScenario .wrongAnswerShape) := by decide
theorem witness_UnansweredRequestStaysStuck : (sessionAt .rd6 []).stuck ∧ (sessionAt .hs []).stuck :=
  ⟨⟨rfl, rfl, rfl⟩, ⟨rfl, rfl, rfl⟩⟩
theorem witness_PlacedWordRuns :
    decodeTableWord 8 0x0 = some .idle ∧ decodeTableWord 8 0xF = none ∧ decodeTableWord 8 0x10 = some (.deobf 0x10) ∧
      decodeTableWord 48 0xFFFFFFFFFFFF = some (.decode (frm 0xFF 0xFF 0xFF 0xFF 0xFF 0xFF)) ∧
      Instr.idle = Phase.idle.instr ∧ Phase.chk ≠ .idle ∧ (∀ p : Phase, Instr.start ≠ p.instr) :=
  ⟨by decide, by decide, by decide, by decide, rfl, by decide, by intro p; cases p <;> decide⟩

theorem witness_PhaseTransfersOnlyByTable :
    ((sessionAt .dlyRest []).phase = .idle ↔ (sessionAt .dlyRest []).run = false) ∧
      ∃ t, step (sessionAt .dlyRest []) = .next t ∧ t.phase = .chk := ⟨by decide, _, rfl, rfl⟩
/-- Ended by CHK, by a fatal error, by reset. -/
theorem witness_SessionEndsOnlyThreeWays :
    (∃ t, step { sessionAt .chk [] with stopReq := true } = .next t ∧ t.run = false) ∧
      (∃ t, step { sessionAt .poll [.w1 .err] with cfg := fatalCfg } = .next t ∧ t.run = false) ∧
      (∃ t, step (sessionAt .rd6 [.reset captured]) = .next t ∧ t.run = false) ∧ (sessionAt .chk []).run = true :=
  ⟨⟨_, rfl, rfl⟩, ⟨_, rfl, rfl⟩, ⟨_, rfl, rfl⟩, rfl⟩
theorem witness_ElementWriters : ∃ t, step (sessionAt .rd6 [.r6 (.bytes bytes4)]) = .next t ∧ t.rxCount = 4 :=
  ⟨_, rfl, rfl⟩
theorem witness_StatusBitsAreSticky :
    ∃ t, step { sessionAt .idle [.start] with status := 0b0100 } = .next t ∧ (0b0100 : BitVec 4).getLsbD 2 = true ∧
      t.status.getLsbD 2 = false := ⟨_, rfl, rfl, rfl⟩
/-- A read error leaves RXERR set and RXCOUNT 0: the invariant's last clause is in play. -/
theorem witness_StepKeepsInvariant :
    ({ sessionAt .rd6 [.r6 .err] with stopReq := true, rxCount := 6, cycleCounter := 4294967295 } : State).Inv ∧
      ∃ t, step { sessionAt .rd6 [.r6 .err] with stopReq := true, rxCount := 6, cycleCounter := 4294967295 } = .next t ∧
        t.rxErr = true := ⟨by decide, _, rfl, rfl⟩
theorem witness_ResetStateInOrder : [Item.start, .w2 .err, .wait].any isReset = false := by decide
/-- In the middle of a cycle, after a poll request that failed; and where a session has begun and nothing of it is done. -/
theorem witness_StepKeepsAccessOrder :
    ({ sessionAt .dlyData [] with trace := [.hostStart, .busWrite [0x40, 0x00] (.count 2), .delay .settleCmd,
        .busWrite [0x00] (.count 0), .cond .pollRequestFailed] } : State).InOrder ∧
      ({ sessionAt .hs [] with trace := [.hostStop, .hostStart, .hostStart] } : State).InOrder :=
  ⟨⟨rfl, by decide, .answered .pollRequest [] false, by decide, by decide, by decide⟩,
    ⟨rfl, by decide, .begun, by decide, by decide, fun _ => rfl⟩⟩
/-- Out of order: a command between a bus event and its condition, a repeated condition, a condition the answer does not raise,
a missing one, `Stopped` with nothing done, a command inside a Sample, a session that begins with a poll request. -/
theorem test_out_of_order :
    [[Event.hostStart, .busWrite [0x40, 0x00] .err, .hostStop],
      [.hostStart, .busWrite [0x40, 0x00] .err, .cond .transportError, .cond .transportError],
      [.hostStart, .busWrite [0x40, 0x00] (.count 2), .cond .handshakeIncomplete],
      [.hostStart, .busWrite [0x40, 0x00] (.count 1), .delay .settleCmd],
      [.hostStart, .stopped], [.hostStart, .delay .settleCmd]].map (tracePos .stopped) =
        [none, none, none, none, none, none] ∧
      tracePos (.reporting 3) [.hostStop] = none := by decide
theorem witness_StepKeepsQuietAfterStopped :
    ({ sessionAt .hs [] with trace := [.hostStart, .stopped, .hostStop, .hostStart] } : State).Quiet :=
  ⟨by decide, fun _ => rfl, rfl⟩
/-- The two states differ in FRAME, STATUS and the bytes of the read to come. -/
theorem witness_DataNeverSteersControl :
    sameControl { sessionAt .rd6 [.r6 (.bytes bytes4)] with frame := captured, status := 0b1111 }
      { sessionAt .rd6 [.r6 (.bytes bytes6)] with rxErr := true } := ⟨rfl, rfl, rfl, rfl, rfl, rfl⟩
theorem witness_SinkValuesStayInRange :
    (∃ t, step { sessionAt .decrpt [] with frame := frm 0xFF 0xFF 0xFF 0xFF 0xFF 0xFF } = .next t) ∧
      (sessionAt .decrpt []).trace.all sinkInRange = true := ⟨⟨_, rfl⟩, rfl⟩

/-- With a handshake and without one. -/
theorem witness_NonFatalCycleTrace :
    let s := sessionAt .hs [.w2 .err, .w1 (.count 0), .r6 (.bytes bytes4)]
    let u : State := { sessionAt .hs [.w1 .err, .r6 .err] with cycleCounter := 11 }
    (s.phase = .hs ∧ s.cfg.terrFatal = false ∧
      s.script = (if s.cycleCounter % 10 = 0 then [.w2 .err] else []) ++ .w1 (.count 0) :: .r6 (.bytes bytes4) :: []) ∧
      (u.phase = .hs ∧ u.cfg.terrFatal = false ∧
        u.script = (if u.cycleCounter % 10 = 0 then [.w2 .err] else []) ++ .w1 .err :: .r6 .err :: []) := by decide
/-- Three cycles from the last counter value of a four-bit counter. -/
theorem witness_HandshakeCadence :
    let s := { sessionAt .hs (okItemsN 4 3 15 captured) with cfg := { Config.default with cw := 4 }, cycleCounter := 15 }
    s.phase = .hs ∧ s.stopReq = false ∧ s.cycleCounter < 2 ^ s.cfg.cw ∧
      s.script = okItemsN s.cfg.cw 3 s.cycleCounter captured ∧ s.script.length = 7 ∧ 0 ≤ 3 ∧ 3 ≤ 3 := by decide
/-- V41: at `CW = 4` the last multiple of ten is 10 and the distance is 6. -/
theorem witness_HandshakeDistanceAtWrap :
    4 ≤ 4 ∧ 10 * ((2 ^ 4 - 1) / 10) = 10 ∧ 2 ^ 4 % 10 = 6 ∧ 0 < 5 ∧ 5 < 2 ^ 4 % 10 := by decide
theorem witness_PendingStopIsServed :
    ({ sessionAt .hs [] with stopReq := true } : State).Inv ∧
      ({ sessionAt .hs [] with stopReq := true } : State).run = true := ⟨by decide, by decide⟩
theorem witness_InstanceNeedsBusAddress :
    (0x53 ≠ 0x52) ∧ ({ Config.default with cw := 3 } : Config).cw < 4 ∧ 4 ≤ ({ Config.default with cw := 4 } : Config).cw := by
  decide

theorem witness_RequestWordsOnPort :
    ((sessionAt .hs []).phase = .hs ∧ (sessionAt .hs []).cycleCounter % 10 = 0) ∧ (sessionAt .poll []).phase = .poll ∧
      (sessionAt .rd6 []).phase = .rd6 ∧ issuesBusOp { sessionAt .hs [] with cycleCounter := 9 } = false := by decide
/-- Beat 0, beat 7, a dropped Sample and a phase without one. -/
theorem witness_SinkWordsOfSample :
    ((sessionAt .decrpt []).phase = .decrpt ∧ dropsSample (sessionAt .decrpt []) = false) ∧
      (portsOut { sessionAt .decrpt [] with sinkBeat := 7 }).sinkKind = 2 ∧ (sessionAt .poll []).phase ≠ .decrpt ∧
      dropsSample { sessionAt .decrpt [] with cfg := dropCfg } = true := by decide
/-- A count of seven for a read is clamped to six; the data word's byte 5 is read. -/
theorem witness_AnswerWordOnPort :
    ({ idlePorts with trRspErr := true } : PortsIn).trRspErr = true ∧ idlePorts.trRspErr = false ∧
      portReadAnswer { idlePorts with trRspCount := 7, trRspData := 0x0A9A0A0A7214 } =
        .bytes ⟨[0x14, 0x72, 0x0A, 0x0A, 0x9A, 0x0A], by decide⟩ := by decide
/-- Each of the three requests, due and with no answer or another one at the head. -/
theorem witness_EveryOperationCompletes :
    ((sessionAt .hs [.w1 .err]).cycleCounter % 10 = 0 ∧ ∀ a, (sessionAt .hs [.w1 .err]).script.head? ≠ some (.w2 a)) ∧
      (∀ a, (sessionAt .poll []).script.head? ≠ some (.w1 a)) ∧
      (∀ a, (sessionAt .rd6 [.w2 .err]).script.head? ≠ some (.r6 a)) := by simp [sessionAt, State.reset]
theorem witness_ResetEdgeClearsOutputs :
    ({ idlePorts with rst := true, cmdStart := true, trRspValid := true } : PortsIn).rst = true := rfl
/-- One pulse showing, one more to come, and an answer that raises two. -/
theorem witness_CondPulsePerEvent :
    idlePorts.rst = false ∧
      (clockEdge ⟨1000, 1⟩ { idlePorts with trRspValid := true, trRspErr := true }
        { sessionAt .poll [] with condPulses := [.handshakeIncomplete] }).condPulses =
        [.transportError, .pollRequestFailed] ∧
      ({ sessionAt .poll [] with condPulses := [.handshakeIncomplete] } : State).condPulses = .handshakeIncomplete :: [] ∧
      State.reset.condPulses = [] := by decide
theorem witness_TickCountIsCeiling :
    (ClockFreq.mk 1000 1).wellFormed = true ∧ (ClockFreq.mk 2001 2).wellFormed = true := by decide
/-- One clock, and two. -/
theorem witness_DelayLastsTimerClocks :
    (phaseDelay Phase.dlyCmd = some (.settleCmd, .poll) ∧
        ({ sessionAt .dlyCmd [] with timer := 1 } : State).timer = [idlePorts].length ∧
        [idlePorts].all quietEdge = true) ∧
      (phaseDelay Phase.dlyRest = some (.rest, .chk) ∧
        ({ sessionAt .dlyRest [] with timer := 2 } : State).timer = [idlePorts, idlePorts].length) := by decide
theorem witness_TimerLoadedOnEntry :
    quietEdge idlePorts = true ∧ (sessionAt .inc []).phase = .inc ∧
      (({ idlePorts with trRspValid := true } : PortsIn).trRspValid = true ∧ idlePorts.trRspErr = false) ∧
      (idlePorts.trRspErr = true ∨ (sessionAt .poll []).cfg.terrFatal = false) ∧
      ({ sessionAt .decrpt [] with sinkBeat := 7 } : State).sinkBeat = 7 ∧
      dropsSample { sessionAt .decrpt [] with cfg := dropCfg } = true := by decide
/-- A Sample sent, in its last clock but one and after its last, and a Sample dropped. -/
theorem witness_ReportTakesEightClocks :
    ((sessionAt .decrpt []).sinkBeat = 0 ∧ (List.replicate 8 idlePorts).all quietEdge = true ∧
        dropsSample (sessionAt .decrpt []) = false ∧ (List.replicate 8 idlePorts).length = 8 ∧
        (List.replicate 7 idlePorts).length < 8) ∧
      dropsSample { sessionAt .decrpt [] with cfg := dropCfg } = true ∧ [idlePorts].length = 1 := by decide
/-- An edge that waits and an edge that moves; a beat that is not the last. -/
theorem witness_ClockEdgeRefinesOperation :
    quietEdge idlePorts = true ∧ (sessionAt .poll []).script = [] ∧
      (clockEdge ⟨1000, 1⟩ idlePorts (sessionAt .poll [])).phase = .poll ∧
      (clockEdge ⟨1000, 1⟩ { idlePorts with trRspValid := true } (sessionAt .poll [])).phase = .dlyData ∧
      (clockEdge ⟨1000, 1⟩ idlePorts (sessionAt .decrpt [])).phase = .decrpt := by decide

end Sys2Proof.Tests
end

/-! PROOFS. The clock count of a delay (00_scope.md R6). `ticks` is bounded by a count exactly when that many clocks are no
shorter than the delay: the universal property of a ceiling, from which both its bounds follow. -/

namespace Sys2Proof.Machine

open Sys2Proof

theorem clockFreq_wellFormed_iff (f : ClockFreq) :
    f.wellFormed = true ↔ 0 < f.den ∧ 1000 * f.den ≤ f.num := by
  simp [ClockFreq.wellFormed]

theorem delayMillis_pos (d : DelayName) : 0 < delayMillis d := by
  cases d <;> simp [delayMillis]

section

variable {f : ClockFreq} (hden : 0 < f.den) (d : DelayName) (n : Nat)

include hden

/-- `ticks` is the least count of clocks that is no shorter than the delay. -/
theorem ticks_le_iff : ticks f d ≤ n ↔ delayMillis d * f.num ≤ n * (1000 * f.den) := by
  have hpos : 0 < 1000 * f.den := Nat.mul_pos (by decide) hden
  rw [ticks, Nat.div_le_iff_le_mul_add_pred hpos, Nat.add_le_add_iff_right, Nat.mul_comm n]

/-- A count below `ticks` is too short for the delay. -/
theorem lt_ticks_iff : n < ticks f d ↔ n * (1000 * f.den) < delayMillis d * f.num := by
  rw [← Nat.not_le, ticks_le_iff hden, Nat.not_le]

end

theorem ticks_pos {f : ClockFreq} (hf : f.wellFormed = true) (d : DelayName) : 0 < ticks f d := by
  obtain ⟨hden, hfreq⟩ := (clockFreq_wellFormed_iff f).1 hf
  have hnum : 0 < f.num := by omega
  rw [lt_ticks_iff hden, Nat.zero_mul]
  exact Nat.mul_pos (delayMillis_pos d) hnum

/-- Settles O56: the two bounds of the ceiling are `ticks_le_iff` at `ticks` itself and `lt_ticks_iff` at the count before. -/
theorem tickCountIsCeiling : Obligations.TickCountIsCeiling := by
  intro f d hf
  have hden : 0 < f.den := ((clockFreq_wellFormed_iff f).1 hf).1
  have hpos : 0 < ticks f d := ticks_pos hf d
  have enough : delayMillis d * f.num ≤ ticks f d * (1000 * f.den) := (ticks_le_iff hden d _).1 (Nat.le_refl _)
  have least : (ticks f d - 1) * (1000 * f.den) < delayMillis d * f.num :=
    (lt_ticks_iff hden d _).1 (Nat.sub_one_lt_of_lt hpos)
  exact ⟨hpos, enough, least⟩

end Sys2Proof.Machine

/-! PROOFS. The state elements (10_state.md): the invariant, and who writes which element. A phase operation is its work (events
recorded, the counter, an answer taken in) and then one control transfer: on to the next phase, or the end of the session. The
work never touches RUN, STOP_REQ or PHASE, and the transfer touches nothing else but the trace; every statement about a step is
read off this decomposition. -/

namespace Sys2Proof.Machine

open Sys2Proof

/-! ### What an answer leaves in the block -/

/-- Events recorded, and the STATUS bits of the conditions among them set (60_exceptions.md R130). -/
def noted (es : List Event) (s : State) : State :=
  { s with status := s.status ||| raisedMask es, trace := s.trace ++ es }

/-- The frame buffer's elements after a read with this answer (41_sequencer.md R96). -/
def received (a : ReadAnswer) (s : State) : State :=
  { s with frame := frameAfterRead s.frame a, rxCount := rxCountAfterRead a, rxErr := decide (a = .err) }

section

variable (s : State)

theorem record_busWrite (bs : List Byte) (r : WriteResult) : record [.busWrite bs r] s = noted [.busWrite bs r] s := by
  simp [record, noted, raisedMask]

theorem record_busRead (n : Nat) (r : ReadResult) : record [.busRead n r] s = noted [.busRead n r] s := by
  simp [record, noted, raisedMask]

theorem raiseCond_noted (c : Condition) (es : List Event) : raiseCond c (noted es s) = noted (es ++ [.cond c]) s := by
  simp [raiseCond, raisedStatus, noted, raisedMask_append, raisedMask, BitVec.or_assoc]

theorem receiveBytes_noted (bs : RxBytes) (es : List Event) :
    receiveBytes bs.val (noted es s) = noted es (received (.bytes bs) s) := rfl

theorem receiveError_noted (es : List Event) : receiveError (noted es s) = noted es (received .err s) := rfl

/-- An answered handshake write goes on to INC, unless it ends the session by a fatal error. -/
theorem handshakeAnswered_ends (a : WriteAnswer 2) : ∃ es,
    handshakeAnswered a s = goto .inc (noted es s) ∨
      a = .err ∧ s.cfg.terrFatal = true ∧ handshakeAnswered a s = abortSession (noted es s) := by
  obtain ⟨k, -, -, e⟩ | ⟨k, -, -, e⟩ | ⟨-, -, e⟩ | ⟨ha, hf, e⟩ := handshakeAnswered_cases a s <;>
    simp only [record_busWrite, raiseCond_noted] at e
  · exact ⟨_, .inl e⟩
  · exact ⟨_, .inl e⟩
  · exact ⟨_, .inl e⟩
  · exact ⟨_, .inr ⟨ha, hf, e⟩⟩

/-- An answered poll-request write goes on to DLY_DATA, unless it ends the session by a fatal error. -/
theorem pollAnswered_ends (a : WriteAnswer 1) : ∃ es,
    pollAnswered a s = goto .dlyData (noted es s) ∨
      a = .err ∧ s.cfg.terrFatal = true ∧ pollAnswered a s = abortSession (noted es s) := by
  obtain ⟨k, -, -, e⟩ | ⟨k, -, -, e⟩ | ⟨-, -, e⟩ | ⟨ha, hf, e⟩ := pollAnswered_cases a s <;>
    simp only [record_busWrite, raiseCond_noted] at e
  · exact ⟨_, .inl e⟩
  · exact ⟨_, .inl e⟩
  · exact ⟨_, .inl e⟩
  · exact ⟨_, .inr ⟨ha, hf, e⟩⟩

/-- An answered read goes on to DECRPT, unless it ends the session by a fatal error. -/
theorem readAnswered_ends (a : ReadAnswer) : ∃ es,
    readAnswered a s = goto .decrpt (noted es (received a s)) ∨
      a = .err ∧ s.cfg.terrFatal = true ∧ readAnswered a s = abortSession (noted es (received a s)) := by
  obtain ⟨bs, rfl, -, e⟩ | ⟨bs, rfl, -, e⟩ | ⟨rfl, -, e⟩ | ⟨rfl, hf, e⟩ := readAnswered_cases a s <;>
    simp only [record_busRead, receiveBytes_noted, raiseCond_noted, receiveError_noted] at e
  · exact ⟨_, .inl e⟩
  · exact ⟨_, .inl e⟩
  · exact ⟨_, .inl e⟩
  · exact ⟨_, .inr ⟨rfl, hf, e⟩⟩

end

/-! ### A phase operation is work and a control transfer -/

/-- The answer at hand ends the session: an `Err` to the phase's request under `TERR_FATAL` (41_sequencer.md R103). -/
def fatalAnswer (s : State) : Prop :=
  s.cfg.terrFatal = true ∧ issuesBusOp s = true ∧
    ((s.phase = .hs ∧ s.script.head? = some (.w2 .err)) ∨ (s.phase = .poll ∧ s.script.head? = some (.w1 .err)) ∨
      (s.phase = .rd6 ∧ s.script.head? = some (.r6 .err)))

section

variable {s : State}

theorem issuesBusOp_hs (hp : s.phase = .hs) : issuesBusOp s = handshakeDue s := by simp [issuesBusOp, hp]

theorem issuesBusOp_poll (hp : s.phase = .poll) : issuesBusOp s = true := by simp [issuesBusOp, hp]

theorem issuesBusOp_rd6 (hp : s.phase = .rd6) : issuesBusOp s = true := by simp [issuesBusOp, hp]

/-- An idle sequencer issues no request. -/
theorem phase_ne_idle_of_issuesBusOp (hb : issuesBusOp s = true) : s.phase ≠ .idle := by
  intro hp
  simp [issuesBusOp, hp] at hb

theorem fatalAnswer.phase_ne_idle (hf : fatalAnswer s) : s.phase ≠ .idle := by
  obtain ⟨-, hb, -⟩ := hf
  exact phase_ne_idle_of_issuesBusOp hb

end

/-- The work of a phase operation, before its control transfer. -/
inductive PhaseWork (s : State) : State → Prop where
  | recorded (es : List Event) : PhaseWork s (record es s)
  | counted (hp : s.phase = .inc) : PhaseWork s { s with cycleCounter := nextCounter s.cfg.cw s.cycleCounter }
  | written (es : List Event) (hb : issuesBusOp s = true) : PhaseWork s (noted es (popItem s))
  | read (a : ReadAnswer) (es : List Event) (hp : s.phase = .rd6) (ha : s.script.head? = some (.r6 a)) :
      PhaseWork s (noted es (received a (popItem s)))

/-- The control transfer of a phase operation, after its work. -/
inductive PhaseEnd (s : State) : State → Prop where
  | stays : PhaseEnd s s
  | goesOn {u : State} (p : Phase) (hi : s.phase ≠ .idle) (hp : p ≠ .idle) (hw : PhaseWork s u) : PhaseEnd s (goto p u)
  | cancelled (hp : s.phase = .chk) (hs : s.stopReq = true) : PhaseEnd s (abortSession s)
  | aborted {u : State} (hf : fatalAnswer s) (hw : PhaseWork s u) : PhaseEnd s (abortSession u)

/-- Everything one step can do, up to what it takes from the scenario and what a probe shows. -/
inductive StepEnd (s : State) : State → Prop where
  | reset (draw : Frame) (h : s.script.head? = some (.reset draw)) : StepEnd s (resetBlock draw (popItem s))
  | start (h : s.script.head? = some .start) : StepEnd s (startCommand (popItem s))
  | stop (h : s.script.head? = some .stop) : StepEnd s (stopCommand (popItem s))
  | probe (v : DecoderOut) : StepEnd s (showDecoded v (popItem s))
  | phase {t : State} (items : List Item) (turn : sequencerTurn s = true) (ht : PhaseEnd s t) :
      StepEnd s { t with script := items }

section

variable {s t u : State}

theorem PhaseWork.nothing : PhaseWork s s := by
  simpa [record] using PhaseWork.recorded (s := s) []

theorem PhaseEnd.delay (d : DelayName) (p : Phase) (hi : s.phase ≠ .idle) (hp : p ≠ .idle) :
    PhaseEnd s (delayElapsed d p s) := .goesOn p hi hp (.recorded [.delay d])

/-- Each case of a phase operation, as work and control transfer. -/
theorem PhaseCase.ends (h : PhaseCase s t) : PhaseEnd s t := by
  cases h with
  | idle hp => exact .stays
  | waiting hb => exact .stays
  | hsSkipped hp hd => exact .goesOn _ (by simp [hp]) (by simp) .nothing
  | hsAnswered a hp hd ha =>
    have hb : issuesBusOp s = true := (issuesBusOp_hs hp).trans hd
    obtain ⟨es, e | ⟨rfl, hf, e⟩⟩ := handshakeAnswered_ends (popItem s) a <;> rw [e]
    · exact .goesOn _ (by simp [hp]) (by simp) (.written es hb)
    · exact .aborted ⟨hf, hb, .inl ⟨hp, ha⟩⟩ (.written es hb)
  | inc hp => exact .goesOn _ (by simp [hp]) (by simp) (.counted hp)
  | dlyCmd hp => exact .delay _ _ (by simp [hp]) (by simp)
  | pollAnswered a hp ha =>
    have hb := issuesBusOp_poll hp
    obtain ⟨es, e | ⟨rfl, hf, e⟩⟩ := pollAnswered_ends (popItem s) a <;> rw [e]
    · exact .goesOn _ (by simp [hp]) (by simp) (.written es hb)
    · exact .aborted ⟨hf, hb, .inr (.inl ⟨hp, ha⟩)⟩ (.written es hb)
  | dlyData hp => exact .delay _ _ (by simp [hp]) (by simp)
  | rd6Answered a hp ha =>
    have hb := issuesBusOp_rd6 hp
    obtain ⟨es, e | ⟨rfl, hf, e⟩⟩ := readAnswered_ends (popItem s) a <;> rw [e]
    · exact .goesOn _ (by simp [hp]) (by simp) (.read a es hp ha)
    · exact .aborted ⟨hf, hb, .inr (.inr ⟨hp, ha⟩)⟩ (.read .err es hp ha)
  | decrpt hp => exact .goesOn _ (by simp [hp]) (by simp) (.recorded _)
  | dlyRest hp => exact .delay _ _ (by simp [hp]) (by simp)
  | chk hp =>
    obtain ⟨hs, e⟩ | ⟨hs, e⟩ := cancellationChecked_cases s <;> rw [e]
    · exact .cancelled hp hs
    · exact .goesOn _ (by simp [hp]) (by simp) .nothing

/-- A phase operation that issues no request does not look at the scenario. -/
theorem PhaseCase.of_popItem (h : PhaseCase (popItem s) t) (hb : issuesBusOp s = false) :
    ∃ t', PhaseCase s t' ∧ t = popItem t' := by
  have quiet : issuesBusOp (popItem s) ≠ true := ne_true_of_eq_false hb
  cases h with
  | idle hp => exact ⟨_, .idle hp, rfl⟩
  | waiting hw => exact absurd hw quiet
  | hsSkipped hp hd => exact ⟨_, .hsSkipped hp hd, rfl⟩
  | hsAnswered a hp hd ha => exact absurd ((issuesBusOp_hs hp).trans hd) quiet
  | inc hp => exact ⟨_, .inc hp, rfl⟩
  | dlyCmd hp => exact ⟨_, .dlyCmd hp, rfl⟩
  | pollAnswered a hp ha => exact absurd (issuesBusOp_poll hp) quiet
  | dlyData hp => exact ⟨_, .dlyData hp, rfl⟩
  | rd6Answered a hp ha => exact absurd (issuesBusOp_rd6 hp) quiet
  | decrpt hp => exact ⟨_, .decrpt hp, rfl⟩
  | dlyRest hp => exact ⟨_, .dlyRest hp, rfl⟩
  | chk hp =>
    refine ⟨_, .chk hp, ?_⟩
    obtain ⟨hs, e⟩ | ⟨hs, e⟩ := cancellationChecked_cases s
    · rw [e, cancellationChecked_pending (popItem s) hs]; rfl
    · rw [e, cancellationChecked_clear (popItem s) hs]; rfl

/-- Every next state of `step` is one of the cases of `StepEnd`. -/
theorem step_ends (h : step s = .next t) : StepEnd s t := by
  cases step_cases s h with
  | reset draw hh => exact .reset draw hh
  | passed hh hp =>
    have turn : sequencerTurn s = true := by obtain e | e := hh <;> simp [sequencerTurn, e]
    exact .phase s.script.tail turn .stays
  | start hh => exact .start hh
  | stop hh => exact .stop hh
  | probe v hn ht => exact .probe v
  | phase _ turn ht => exact .phase t.script turn ht.ends
  | advanced _ hh hb ht =>
    have turn : sequencerTurn s = true := by simp [sequencerTurn, hh]
    obtain ⟨t', ht', rfl⟩ := ht.of_popItem hb
    exact .phase t'.script.tail turn ht'.ends

/-! ### The work of a phase: what it leaves alone and what it writes -/

theorem PhaseWork.control (h : PhaseWork s u) :
    u.cfg = s.cfg ∧ u.run = s.run ∧ u.stopReq = s.stopReq ∧ u.phase = s.phase := by
  cases h <;> exact ⟨rfl, rfl, rfl, rfl⟩

theorem PhaseWork.trace (h : PhaseWork s u) : ∃ es, u.trace = s.trace ++ es := by
  cases h with
  | recorded es => exact ⟨es, rfl⟩
  | counted hp => exact ⟨[], by simp⟩
  | written es hb => exact ⟨es, rfl⟩
  | read a es hp ha => exact ⟨es, rfl⟩

theorem PhaseWork.status (h : PhaseWork s u) : ∃ m, u.status = s.status ||| m := by
  cases h with
  | recorded es => exact ⟨0, by simp⟩
  | counted hp => exact ⟨0, by simp⟩
  | written es hb => exact ⟨raisedMask es, rfl⟩
  | read a es hp ha => exact ⟨raisedMask es, rfl⟩

theorem PhaseWork.writers (h : PhaseWork s u) :
    (u.frame = s.frame ∧ u.rxCount = s.rxCount ∧ u.rxErr = s.rxErr ∨
      ∃ a, s.phase = .rd6 ∧ s.script.head? = some (.r6 a) ∧ u.frame = frameAfterRead s.frame a) ∧
    (u.cycleCounter = s.cycleCounter ∨ s.phase = .inc) ∧ (u.status = s.status ∨ issuesBusOp s = true) := by
  cases h with
  | recorded es => exact ⟨.inl ⟨rfl, rfl, rfl⟩, .inl rfl, .inl rfl⟩
  | counted hp => exact ⟨.inl ⟨rfl, rfl, rfl⟩, .inr hp, .inl rfl⟩
  | written es hb => exact ⟨.inl ⟨rfl, rfl, rfl⟩, .inl rfl, .inr hb⟩
  | read a es hp ha => exact ⟨.inr ⟨a, hp, ha, rfl⟩, .inl rfl, .inr (issuesBusOp_rd6 hp)⟩

/-! ### The invariant -/

/-- A read delivers at most six bytes, and RXCOUNT has room for them (10_state.md R17). -/
theorem rxCountAfterRead_le (a : ReadAnswer) : (rxCountAfterRead a).toNat ≤ 6 := by
  cases a with
  | err => simp [rxCountAfterRead]
  | bytes bs =>
    have hlen : bs.val.length ≤ 6 := bs.property
    simp only [rxCountAfterRead, BitVec.toNat_ofNat]
    omega

theorem PhaseWork.inv (h : PhaseWork s u) (hi : s.Inv) : u.Inv := by
  obtain ⟨hphase, hstop, hcount, hrx, herr⟩ := hi
  cases h with
  | recorded es => exact ⟨hphase, hstop, hcount, hrx, herr⟩
  | counted hp => exact ⟨hphase, hstop, nextCounter_lt _ _, hrx, herr⟩
  | written es hb => exact ⟨hphase, hstop, hcount, hrx, herr⟩
  | read a es hp ha =>
    refine ⟨hphase, hstop, hcount, rxCountAfterRead_le a, fun hr => ?_⟩
    have failed : a = .err := of_decide_eq_true hr
    subst failed
    rfl

theorem goto_inv (p : Phase) (hi : s.Inv) (hs : s.phase ≠ .idle) (hp : p ≠ .idle) : (goto p s).Inv := by
  obtain ⟨hphase, hrest⟩ := hi
  have running : s.run ≠ false := fun hr => hs (hphase.2 hr)
  exact ⟨iff_of_false hp running, hrest⟩

theorem abortSession_inv (hi : s.Inv) : (abortSession s).Inv := by
  obtain ⟨-, -, hbuffer⟩ := hi
  exact ⟨iff_of_true rfl rfl, by simp, hbuffer⟩

theorem resetBlock_inv (draw : Frame) : (resetBlock draw s).Inv := by
  simp [State.Inv]

theorem startCommand_inv (hi : s.Inv) : (startCommand s).Inv := by
  obtain ⟨-, e⟩ | ⟨-, e⟩ := startCommand_cases s <;> rw [e]
  · exact hi
  · obtain ⟨-, -, -, hrx⟩ := hi
    exact ⟨by simp, by simp, Nat.two_pow_pos _, hrx⟩

theorem stopCommand_inv (hi : s.Inv) : (stopCommand s).Inv := by
  obtain ⟨hr, e⟩ | ⟨-, e⟩ := stopCommand_cases s <;> rw [e]
  · obtain ⟨hphase, -, hbuffer⟩ := hi
    exact ⟨hphase, fun _ => hr, hbuffer⟩
  · exact hi

theorem PhaseEnd.inv (h : PhaseEnd s t) (hi : s.Inv) : t.Inv := by
  cases h with
  | stays => exact hi
  | goesOn p hs hp hw =>
    obtain ⟨-, -, -, samePhase⟩ := hw.control
    exact goto_inv p (hw.inv hi) (samePhase ▸ hs) hp
  | cancelled hp hs => exact abortSession_inv hi
  | aborted hf hw => exact abortSession_inv (hw.inv hi)

end

/-- Settles O40: the work of a phase keeps the invariant, each control transfer keeps it, and so do the commands and the reset. -/
theorem stepKeepsInvariant : Obligations.StepKeepsInvariant := by
  intro s t hi h
  have popped : (popItem s).Inv := hi
  cases step_ends h with
  | reset draw hh => exact resetBlock_inv draw
  | start hh => exact startCommand_inv popped
  | stop hh => exact stopCommand_inv popped
  | probe v => exact hi
  | phase items turn ht => exact ht.inv hi

/-! ### How a session ends -/

/-- A phase operation ends a session by CHK or by a fatal error, and records `Stopped` last. -/
theorem PhaseEnd.stops {s t : State} (h : PhaseEnd s t) (hr : s.run = true) (hn : t.run = false) :
    (s.phase = .chk ∧ s.stopReq = true ∧ t.trace = s.trace ++ [.stopped]) ∨
      (fatalAnswer s ∧ t.trace.getLast? = some .stopped) := by
  cases h with
  | stays => simp [hr] at hn
  | goesOn p hi hp hw =>
    obtain ⟨-, sameRun, -⟩ := hw.control
    simp [sameRun, hr] at hn
  | cancelled hp hs => exact .inl ⟨hp, hs, rfl⟩
  | aborted hf hw => exact .inr ⟨hf, by simp⟩

/-- Settles O36: a command leaves a running session running and a probe does not touch RUN, so but for the reset it is a phase
operation that ends the session, and `PhaseEnd.stops` says how. -/
theorem sessionEndsOnlyThreeWays : Obligations.SessionEndsOnlyThreeWays := by
  intro s t h hr hn
  have popped : (popItem s).run = true := hr
  cases step_ends h with
  | reset draw hh => exact .inl ⟨draw, hh⟩
  | start hh => simp [startCommand_running _ popped, hr] at hn
  | stop hh => simp [stopCommand_running _ popped, hr] at hn
  | probe v => simp [hr] at hn
  | phase items turn ht =>
    obtain byCheck | ⟨⟨hf, -, herr⟩, hlast⟩ := ht.stops hr hn
    · exact .inr (.inl byCheck)
    · exact .inr (.inr ⟨hf, hlast, herr⟩)

/-! ### Who writes which element -/

section

variable {s t : State}

theorem PhaseEnd.cfg (h : PhaseEnd s t) : t.cfg = s.cfg := by
  cases h with
  | stays => rfl
  | goesOn p hi hp hw =>
    obtain ⟨sameCfg, -⟩ := hw.control
    exact sameCfg
  | cancelled hp hs => rfl
  | aborted hf hw =>
    obtain ⟨sameCfg, -⟩ := hw.control
    exact sameCfg

theorem PhaseEnd.trace (h : PhaseEnd s t) : ∃ es, t.trace = s.trace ++ es := by
  cases h with
  | stays => exact ⟨[], by simp⟩
  | goesOn p hi hp hw => exact hw.trace
  | cancelled hp hs => exact ⟨[.stopped], rfl⟩
  | aborted hf hw =>
    obtain ⟨es, e⟩ := hw.trace
    exact ⟨es ++ [.stopped], by simp [e]⟩

theorem PhaseEnd.status (h : PhaseEnd s t) : ∃ m, t.status = s.status ||| m := by
  cases h with
  | stays => exact ⟨0, by simp⟩
  | goesOn p hi hp hw => exact hw.status
  | cancelled hp hs => exact ⟨0, by simp⟩
  | aborted hf hw => exact hw.status

theorem startCommand_cfg : (startCommand s).cfg = s.cfg := by
  obtain ⟨-, e⟩ | ⟨-, e⟩ := startCommand_cases s <;> rw [e] <;> rfl

theorem stopCommand_cfg : (stopCommand s).cfg = s.cfg := by
  obtain ⟨-, e⟩ | ⟨-, e⟩ := stopCommand_cases s <;> rw [e] <;> rfl

theorem startCommand_trace : (startCommand s).trace = s.trace ++ [.hostStart] := by
  obtain ⟨-, e⟩ | ⟨-, e⟩ := startCommand_cases s <;> rw [e] <;> rfl

theorem stopCommand_trace : (stopCommand s).trace = s.trace ++ [.hostStop] := by
  obtain ⟨-, e⟩ | ⟨-, e⟩ := stopCommand_cases s <;> rw [e] <;> rfl

theorem stopCommand_status : (stopCommand s).status = s.status := by
  obtain ⟨-, e⟩ | ⟨-, e⟩ := stopCommand_cases s <;> rw [e] <;> rfl

/-- No step writes the parameters (10_state.md R19). -/
theorem StepEnd.cfg (h : StepEnd s t) : t.cfg = s.cfg := by
  cases h with
  | reset draw hh => rfl
  | start hh => exact startCommand_cfg
  | stop hh => exact stopCommand_cfg
  | probe v => rfl
  | phase items turn ht => exact ht.cfg

/-- The trace is append only (00_scope.md R9). -/
theorem StepEnd.trace (h : StepEnd s t) : ∃ es, t.trace = s.trace ++ es := by
  cases h with
  | reset draw hh => exact ⟨[], by simp⟩
  | start hh => exact ⟨_, startCommand_trace⟩
  | stop hh => exact ⟨_, stopCommand_trace⟩
  | probe v => exact ⟨[], by simp⟩
  | phase items turn ht => exact ht.trace

end

/-- Settles O37: a phase operation's work writes the frame buffer, the counter and STATUS, its control transfer RUN, STOP_REQ and
PHASE; a command writes only where it takes effect. -/
theorem elementWriters : Obligations.ElementWriters := by
  intro s t h
  have hends := step_ends h
  refine ⟨hends.cfg, hends.trace, ?_⟩
  cases hends with
  | reset draw hh => exact .inl ⟨draw, hh⟩
  | start hh =>
    obtain ⟨-, e⟩ | ⟨hr, e⟩ := startCommand_cases (popItem s) <;> rw [e]
    · exact .inr ⟨.inl ⟨rfl, rfl, rfl⟩, .inl rfl, .inl rfl, .inl rfl, .inl rfl, .inl rfl⟩
    · have begins : s.script.head? = some .start ∧ s.run = false := ⟨hh, hr⟩
      exact .inr ⟨.inl ⟨rfl, rfl, rfl⟩, .inr (.inl begins), .inr (.inl begins), .inr (.inl begins), .inr (.inl begins),
        .inr (.inl begins)⟩
  | stop hh =>
    obtain ⟨hr, e⟩ | ⟨-, e⟩ := stopCommand_cases (popItem s) <;> rw [e]
    · exact .inr ⟨.inl ⟨rfl, rfl, rfl⟩, .inl rfl, .inr (.inr (.inl ⟨hh, hr⟩)), .inl rfl, .inl rfl, .inl rfl⟩
    · exact .inr ⟨.inl ⟨rfl, rfl, rfl⟩, .inl rfl, .inl rfl, .inl rfl, .inl rfl, .inl rfl⟩
  | probe v => exact .inr ⟨.inl ⟨rfl, rfl, rfl⟩, .inl rfl, .inl rfl, .inl rfl, .inl rfl, .inl rfl⟩
  | phase items turn ht =>
    refine .inr ?_
    cases ht with
    | stays => exact ⟨.inl ⟨rfl, rfl, rfl⟩, .inl rfl, .inl rfl, .inl rfl, .inl rfl, .inl rfl⟩
    | goesOn p hi hp hw =>
      obtain ⟨-, sameRun, sameStop, -⟩ := hw.control
      obtain ⟨hbuffer, hcounter, hstatus⟩ := hw.writers
      exact ⟨hbuffer, hcounter.imp_right fun hinc => .inr ⟨turn, hinc⟩, .inl sameStop,
        hstatus.imp_right fun hb => .inr ⟨turn, hb⟩, .inl sameRun, .inr (.inr ⟨turn, hi⟩)⟩
    | cancelled hp hs =>
      have byCheck : sequencerTurn s = true ∧ s.phase = .chk := ⟨turn, hp⟩
      exact ⟨.inl ⟨rfl, rfl, rfl⟩, .inl rfl, .inr (.inr (.inr (.inl byCheck))), .inl rfl, .inr (.inr (.inl byCheck)),
        .inr (.inr ⟨turn, by simp [hp]⟩)⟩
    | aborted hf hw =>
      obtain ⟨hbuffer, hcounter, hstatus⟩ := hw.writers
      exact ⟨hbuffer, hcounter.imp_right fun hinc => .inr ⟨turn, hinc⟩, .inr (.inr (.inr (.inr hf))),
        hstatus.imp_right fun hb => .inr ⟨turn, hb⟩, .inr (.inr (.inr hf)), .inr (.inr ⟨turn, hf.phase_ne_idle⟩)⟩

/-! ### STATUS -/

/-- But for the reset and a START that begins a session, a step only adds bits to STATUS (10_state.md R18). -/
theorem StepEnd.status {s t : State} (h : StepEnd s t) :
    (∃ draw, s.script.head? = some (.reset draw)) ∨ (s.script.head? = some .start ∧ s.run = false) ∨
      ∃ m, t.status = s.status ||| m := by
  cases h with
  | reset draw hh => exact .inl ⟨draw, hh⟩
  | start hh =>
    obtain ⟨-, e⟩ | ⟨hr, -⟩ := startCommand_cases (popItem s)
    · exact .inr (.inr ⟨0, by simp [e]⟩)
    · exact .inr (.inl ⟨hh, hr⟩)
  | stop hh => exact .inr (.inr ⟨0, by simp [stopCommand_status]⟩)
  | probe v => exact .inr (.inr ⟨0, by simp⟩)
  | phase items turn ht => exact .inr (.inr ht.status)

/-- Settles O38: a bit that was set is still set once bits are only added. -/
theorem statusBitsAreSticky : Obligations.StatusBitsAreSticky := by
  intro s t j h hset hclear
  obtain byReset | byStart | ⟨m, e⟩ := (step_ends h).status
  · exact .inl byReset
  · exact .inr byStart
  · simp [e, hset] at hclear

end Sys2Proof.Machine

/-! PROOFS. TIMER (10_state.md R23): it is loaded on entry to a delay phase and counts that phase's clocks. -/

namespace Sys2Proof.Machine

open Sys2Proof

section

variable {f : ClockFreq} {inp : PortsIn} {s : State} {d : DelayName} {next : Phase}

/-- An edge without reset and command shows the sequencer's move in every element but the pulses. -/
theorem clockEdge_quiet_phase_timer (h : quietEdge inp = true) :
    (clockEdge f inp s).phase = (sequencerClock f inp s).phase ∧
      (clockEdge f inp s).timer = (sequencerClock f inp s).timer := by
  rw [clockEdge_quiet f inp s h]
  exact ⟨rfl, rfl⟩

/-! ### TIMER is loaded -/

theorem loadTimer_phase : (loadTimer f s).phase = s.phase := by
  unfold loadTimer
  split <;> rfl

theorem loadTimer_timer (h : phaseDelay s.phase = some (d, next)) : (loadTimer f s).timer = ticks f d := by
  unfold loadTimer
  split <;> simp_all [phaseDelay]

/-- A sequencer whose move loads TIMER on arrival in a delay phase stands there after the edge, TIMER loaded. -/
theorem clockEdge_loads {u : State} (p : Phase) (hq : quietEdge inp = true)
    (hu : sequencerClock f inp s = loadTimer f u) (hp : u.phase = p) (hd : phaseDelay p = some (d, next)) :
    (clockEdge f inp s).phase = p ∧ (clockEdge f inp s).timer = ticks f d := by
  obtain ⟨hphase, htimer⟩ := clockEdge_quiet_phase_timer (f := f) (s := s) hq
  rw [hphase, htimer, hu]
  exact ⟨loadTimer_phase.trans hp, loadTimer_timer (hp ▸ hd)⟩

theorem portWriteAnswer_err_iff (n : Nat) : portWriteAnswer n inp = .err ↔ inp.trRspErr = true := by
  unfold portWriteAnswer
  split <;> simp_all

/-- A poll request that does not end the session goes on to DLY_DATA (41_sequencer.md R94). -/
theorem pollAnswered_phase {a : WriteAnswer 1} (h : a ≠ .err ∨ s.cfg.terrFatal = false) :
    (pollAnswered a s).phase = .dlyData := by
  obtain ⟨es, e | ⟨ha, hf, -⟩⟩ := pollAnswered_ends s a
  · rw [e]; rfl
  · simp [ha, hf] at h

/-- The clock that ends DECRPT goes on to DLY_REST (30_encoding.md R56). -/
theorem reportClock_phase (h : s.sinkBeat = 7 ∨ dropsSample s = true) : (reportClock s).phase = .dlyRest := by
  obtain ⟨-, e⟩ | ⟨-, -, e⟩ | ⟨hsent, hbeat, -⟩ := reportClock_cases s
  · rw [e]; rfl
  · rw [e]; rfl
  · obtain hlast | hdropped := h
    · exact absurd hlast hbeat
    · simp [hsent] at hdropped

end

/-- Settles O58: INC, an answered POLL and the last clock of DECRPT each arrive in a delay phase and load TIMER there. -/
theorem timerLoadedOnEntry : Obligations.TimerLoadedOnEntry := by
  intro f inp s hq
  refine ⟨fun hp => ?_, fun hp hvalid hgoes => ?_, fun hp hlast => ?_⟩
  · exact clockEdge_loads (u := goto .dlyCmd { s with cycleCounter := nextCounter s.cfg.cw s.cycleCounter }) .dlyCmd hq
      (by simp only [sequencerClock, hp]) rfl rfl
  · have goesOn : portWriteAnswer 1 inp ≠ .err ∨ s.cfg.terrFatal = false :=
      hgoes.imp_left fun hok => by simp [portWriteAnswer_err_iff, hok]
    exact clockEdge_loads .dlyData hq (by simp only [sequencerClock, hp, hvalid, if_true]) (pollAnswered_phase goesOn) rfl
  · have ends : (dropsSample s || decide (s.sinkBeat = 7)) = true := by simpa [or_comm] using hlast
    exact clockEdge_loads .dlyRest hq (by simp only [sequencerClock, hp, ends, if_true]) (reportClock_phase hlast) rfl

/-! ### TIMER counts the clocks of a delay -/

section

variable {f : ClockFreq} {inp : PortsIn} {s : State} {d : DelayName} {next : Phase}

theorem sequencerClock_delay (h : phaseDelay s.phase = some (d, next)) : sequencerClock f inp s = delayClock d next s := by
  unfold sequencerClock
  split <;> simp_all [phaseDelay]

/-- The pulses after an edge, from the events it recorded. -/
theorem pulsesAfter_of_trace {t : State} (es : List Event) (h : t.trace = s.trace ++ es) :
    pulsesAfter s t = s.condPulses.tail ++ raisedConds es := by
  simp [pulsesAfter, h]

/-- While TIMER is above 1 a clock of a delay only counts it down (70_reset_and_hazards.md R175). -/
theorem clockEdge_delay_waits (hd : phaseDelay s.phase = some (d, next)) (hq : quietEdge inp = true) (ht : 1 < s.timer) :
    clockEdge f inp s = { s with timer := s.timer - 1, condPulses := s.condPulses.tail } := by
  obtain ⟨h1, -⟩ | ⟨-, e⟩ := delayClock_cases s d next
  · omega
  · rw [clockEdge_quiet f inp s hq, sequencerClock_delay hd, e, pulsesAfter_of_trace [] (by simp)]
    simp [raisedConds]

/-- With TIMER at 1 the clock ends the delay, as the transaction-level step does (10_state.md R23). -/
theorem clockEdge_delay_ends (hd : phaseDelay s.phase = some (d, next)) (hq : quietEdge inp = true) (ht : s.timer ≤ 1) :
    clockEdge f inp s = { delayElapsed d next s with timer := 0, condPulses := s.condPulses.tail } := by
  obtain ⟨-, e⟩ | ⟨h1, -⟩ := delayClock_cases s d next
  · rw [clockEdge_quiet f inp s hq, sequencerClock_delay hd, e, pulsesAfter_of_trace [.delay d] (by simp)]
    simp [raisedConds, delayElapsed, goto, record]
  · omega

theorem clockEdges_append (inps inps' : List PortsIn) :
    clockEdges f (inps ++ inps') s = clockEdges f inps' (clockEdges f inps s) := List.foldl_append

/-- Fewer clocks than TIMER holds only count it down. -/
theorem clockEdges_delay_waits {inps : List PortsIn} (hd : phaseDelay s.phase = some (d, next))
    (hq : inps.all quietEdge = true) (ht : inps.length < s.timer) :
    clockEdges f inps s =
      { s with timer := s.timer - inps.length, condPulses := s.condPulses.drop inps.length } := by
  induction inps generalizing s with
  | nil => simp [clockEdges]
  | cons inp rest ih =>
    simp only [List.all_cons, Bool.and_eq_true] at hq
    obtain ⟨hfirst, hrest⟩ := hq
    simp only [List.length_cons] at ht
    calc clockEdges f (inp :: rest) s
      _ = clockEdges f rest (clockEdge f inp s) := rfl
      _ = clockEdges f rest { s with timer := s.timer - 1, condPulses := s.condPulses.tail } := by
        rw [clockEdge_delay_waits hd hfirst (by omega)]
      _ = { s with
            timer := s.timer - 1 - rest.length, condPulses := s.condPulses.tail.drop rest.length } :=
        ih hd hrest (Nat.lt_sub_of_add_lt ht)
      _ = { s with
            timer := s.timer - (rest.length + 1), condPulses := s.condPulses.drop (rest.length + 1) } := by
        rw [Nat.sub_sub, Nat.add_comm 1, List.drop_tail]

end

/-- Settles O57: all clocks but the last only count TIMER down, so it stands at 1 in the last one, which ends the delay. -/
theorem delayLastsTimerClocks : Obligations.DelayLastsTimerClocks := by
  intro f s inps d next hd htimer hne hq
  constructor
  · intro k hk
    have length : (inps.take k).length = k := List.length_take_of_le (Nat.le_of_lt hk)
    have quiet : (inps.take k).all quietEdge = true := by
      rw [List.all_eq_true] at hq ⊢
      exact fun inp hmem => hq inp (List.mem_of_mem_take hmem)
    rw [clockEdges_delay_waits hd quiet (by omega)]
    exact ⟨rfl, rfl⟩
  · obtain rfl | ⟨before, last, rfl⟩ := List.eq_nil_or_concat' inps
    · exact absurd rfl hne
    · simp only [List.all_append, List.all_cons, List.all_nil, Bool.and_true, Bool.and_eq_true] at hq
      obtain ⟨hbefore, hlast⟩ := hq
      rw [List.length_append, List.length_singleton] at htimer
      have counted := clockEdges_delay_waits (f := f) hd hbefore (by omega)
      have delaying : phaseDelay (clockEdges f before s).phase = some (d, next) := by rw [counted]; exact hd
      have lastClock : (clockEdges f before s).timer ≤ 1 := by simp only [counted]; omega
      calc transactionPart (clockEdges f (before ++ [last]) s)
        _ = transactionPart (clockEdge f last (clockEdges f before s)) := by rw [clockEdges_append]; rfl
        _ = transactionPart (delayElapsed d next (clockEdges f before s)) := by
          rw [clockEdge_delay_ends delaying hlast lastClock]; rfl
        _ = { transactionPart s with phase := next, trace := s.trace ++ [.delay d] } := by rw [counted]; rfl

end Sys2Proof.Machine

/-! PROOFS. The bus and the sink (20_memory.md): the order of the block's accesses, what of the delivered data can steer the
sequencer, and the range of the reported values. All three are read off one equation for each bus operation: the answer's events
are recorded, a read's bytes are taken in, and then the operation ends by whether the answer failed. -/

namespace Sys2Proof.Machine

open Sys2Proof

/-! ### How a bus operation ends -/

/-- The end of a bus operation whose answer is recorded: an error ends it as R131 says, a success goes on. -/
def busOpEnds (failed : Bool) (next : Phase) (s : State) : State := if failed then afterError next s else goto next s

section

variable (s : State)

/-- The two ends: on to the next phase, or the abort after a fatal error. -/
theorem busOpEnds_cases (failed : Bool) (next : Phase) :
    busOpEnds failed next s = goto next s ∨
      failed = true ∧ s.cfg.terrFatal = true ∧ busOpEnds failed next s = abortSession s := by
  cases failed with
  | false => exact .inl rfl
  | true =>
    cases hf : s.cfg.terrFatal with
    | false => exact .inl (afterError_logged s next hf)
    | true => exact .inr ⟨rfl, rfl, afterError_fatal s next hf⟩

theorem handshakeAnswered_eq (a : WriteAnswer 2) :
    handshakeAnswered a s = busOpEnds (decide (a = .err)) .inc
      (noted (.busWrite [0x40, 0x00] (writeResult a) :: handshakeConds a) s) := by
  cases a with
  | err => rw [handshakeAnswered_err, record_busWrite, raiseCond_noted]; rfl
  | count k =>
    by_cases h : k.val < 2
    · rw [handshakeAnswered_short s k h, record_busWrite, raiseCond_noted]
      simp [busOpEnds, handshakeConds, writeResult, h]
    · have full : k.val = 2 := by omega
      rw [handshakeAnswered_full s k full, record_busWrite]
      simp [busOpEnds, handshakeConds, writeResult, full]

theorem pollAnswered_eq (a : WriteAnswer 1) :
    pollAnswered a s = busOpEnds (decide (a = .err)) .dlyData
      (noted (.busWrite [0x00] (writeResult a) :: pollConds a) s) := by
  cases a with
  | err => rw [pollAnswered_err, record_busWrite, raiseCond_noted, raiseCond_noted]; rfl
  | count k =>
    by_cases h : k.val = 0
    · rw [pollAnswered_short s k h, record_busWrite, raiseCond_noted]
      simp [busOpEnds, pollConds, writeResult, h]
    · have full : k.val = 1 := by omega
      rw [pollAnswered_full s k full, record_busWrite]
      simp [busOpEnds, pollConds, writeResult, full]

theorem readAnswered_eq (a : ReadAnswer) :
    readAnswered a s = busOpEnds (decide (a = .err)) .decrpt
      (noted (.busRead 6 (readResult a) :: readConds a) (received a s)) := by
  cases a with
  | err => rw [readAnswered_err, record_busRead, raiseCond_noted, receiveError_noted]; rfl
  | bytes bs =>
    by_cases h : bs.val.length < 6
    · rw [readAnswered_short s bs h, record_busRead, receiveBytes_noted, raiseCond_noted]
      simp [busOpEnds, readConds, readResult, h]
    · have full : bs.val.length = 6 := by have hle : bs.val.length ≤ 6 := bs.property; omega
      rw [readAnswered_full s bs full, record_busRead, receiveBytes_noted]
      simp [busOpEnds, readConds, readResult, full]

end

/-! ### A request without its answer -/

/-- A sequencer whose request the scenario does not answer only waits (20_memory.md R39). -/
theorem exec_unanswered {s : State} (hb : issuesBusOp s = true) (hs : s.script = []) : exec s.phase.instr s = .next s := by
  cases hp : s.phase with
  | hs =>
    have due : handshakeDue s = true := (issuesBusOp_hs hp).symm.trans hb
    simp [Phase.instr, exec, execHs, due, hs]
  | poll => simp [Phase.instr, exec, execPoll, hs]
  | rd6 => simp [Phase.instr, exec, execRd6, hs]
  | _ => simp [issuesBusOp, hp] at hb

/-- Only HS, POLL and RD6 issue a request. -/
theorem phase_of_issuesBusOp {s : State} (hb : issuesBusOp s = true) :
    s.phase = .hs ∨ s.phase = .poll ∨ s.phase = .rd6 := by
  cases hp : s.phase <;> simp_all [issuesBusOp]

theorem step_empty {s : State} (hs : s.script = []) : step s = exec s.phase.instr s := by
  simp [step, fetch_empty s hs]

/-- Settles O32: a stuck sequencer steps to its own state, so any number of steps does. -/
theorem unansweredRequestStaysStuck : Obligations.UnansweredRequestStaysStuck := by
  rintro s ⟨running, hb, hs⟩
  refine ⟨fun k => ?_, ?_, running⟩
  · induction k with
    | zero => rfl
    | succ k ih => rw [runSteps_succ k ((step_empty hs).trans (exec_unanswered hb hs)), ih]
  · exact phase_of_issuesBusOp hb

/-! ### The order of accesses -/

/-! An answered bus operation records just what it then owes: after its conditions nothing is owed. -/

theorem tracePos_handshake {p : TracePos} (hp : p = .begun ∨ p = .rested) (a : WriteAnswer 2) :
    tracePos p (.busWrite [0x40, 0x00] (writeResult a) :: handshakeConds a) =
      some (.answered .handshake [] (decide (a = .err))) := by
  cases a with
  | err => obtain rfl | rfl := hp <;> rfl
  | count k => obtain rfl | rfl := hp <;> fin_cases k <;> rfl

theorem tracePos_pollRequest (a : WriteAnswer 1) :
    tracePos .cmdSettled (.busWrite [0x00] (writeResult a) :: pollConds a) =
      some (.answered .pollRequest [] (decide (a = .err))) := by
  cases a with
  | err => rfl
  | count k => fin_cases k <;> rfl

theorem tracePos_read (a : ReadAnswer) :
    tracePos .dataSettled (.busRead 6 (readResult a) :: readConds a) =
      some (.answered .read [] (decide (a = .err))) := by
  cases a with
  | err => rfl
  | bytes bs =>
    have atMost : bs.val.length ≤ 6 := bs.property
    obtain short | full := Nat.lt_or_eq_of_le atMost
    · simp [readResult, readConds, tracePos, nextPos, readOwes, short, Nat.ne_of_lt short]
    · simp [readResult, readConds, tracePos, nextPos, readOwes, full]

/-- A Sample is the eight beats in their order (20_memory.md R42). -/
theorem tracePos_sampleEvents (failed : Bool) (v : Sample) :
    tracePos (.answered .read [] failed) (sampleEvents v) = some .reported := rfl

/-- The trace is in order and stands at `p`, a position of the phase; at the beginning of a session the counter is 0. -/
def State.StandsAt (s : State) (p : TracePos) : Prop :=
  tracePos .stopped s.trace = some p ∧ posFitsPhase s.phase p = true ∧ (p = .begun → s.cycleCounter = 0)

section

variable {s t : State} {p q : TracePos}

theorem inOrder_iff :
    s.InOrder ↔ s.script.any isReset = false ∧ (s.phase = .idle ↔ s.run = false) ∧ ∃ p, s.StandsAt p := Iff.rfl

/-- Events in order move the position on. -/
theorem tracePos_trace_append {es : List Event} (hs : tracePos .stopped s.trace = some p) (hes : tracePos p es = some q) :
    tracePos .stopped (s.trace ++ es) = some q := by
  rw [tracePos_append, hs, Option.bind_some, hes]

/-! Between steps no condition is owed and no Sample is half sent, so a host command may come. -/

theorem posFitsPhase_stopped {ph : Phase} : posFitsPhase ph .stopped = true ↔ ph = .idle := by
  cases ph <;> simp [posFitsPhase]

theorem nextPos_hostStop {ph : Phase} (fits : posFitsPhase ph p = true) : nextPos p .hostStop = some p := by
  cases p with
  | answered bus owed failed =>
    cases owed with
    | nil => rfl
    | cons c owed => cases ph <;> simp [posFitsPhase] at fits
  | reporting beat => cases ph <;> simp [posFitsPhase] at fits
  | _ => rfl

theorem nextPos_hostStart (hp : p ≠ .stopped) : nextPos p .hostStart = nextPos p .hostStop := by
  cases p with
  | stopped => exact absurd rfl hp
  | answered bus owed failed => cases owed <;> rfl
  | _ => rfl

/-! Each delay moves every position of its phase on to the one position after it. -/

theorem nextPos_settleCmd (fits : posFitsPhase .dlyCmd p = true) : nextPos p (.delay .settleCmd) = some .cmdSettled := by
  have before : (p = .rested ∨ p = .answered .handshake [] false) ∨ p = .answered .handshake [] true := by
    simpa [posFitsPhase] using fits
  obtain (rfl | rfl) | rfl := before <;> rfl

theorem nextPos_settleData (fits : posFitsPhase .dlyData p = true) :
    nextPos p (.delay .settleData) = some .dataSettled := by
  have before : p = .answered .pollRequest [] false ∨ p = .answered .pollRequest [] true := by
    simpa [posFitsPhase] using fits
  obtain rfl | rfl := before <;> rfl

theorem nextPos_rest (fits : posFitsPhase .dlyRest p = true) : nextPos p (.delay .rest) = some .rested := by
  have before : (p = .answered .read [] false ∨ p = .answered .read [] true) ∨ p = .reported := by
    simpa [posFitsPhase] using fits
  obtain (rfl | rfl) | rfl := before <;> rfl

/-- Sent or dropped, a Sample leaves a position from which the long delay may come (41_sequencer.md R97). -/
theorem tracePos_reportEvents (s : State) (fits : posFitsPhase .decrpt p = true) :
    ∃ q, tracePos p (reportEvents s) = some q ∧ posFitsPhase .dlyRest q = true ∧ q ≠ .begun := by
  have before : p = .answered .read [] false ∨ p = .answered .read [] true := by simpa [posFitsPhase] using fits
  cases hd : dropsSample s with
  | true =>
    rw [reportEvents_dropped s hd]
    obtain rfl | rfl := before <;> exact ⟨_, rfl, rfl, nofun⟩
  | false =>
    rw [reportEvents_sent s hd]
    obtain rfl | rfl := before <;> exact ⟨_, tracePos_sampleEvents _ _, rfl, nofun⟩

/-! The position after each part of a step. -/

/-- Past the beginning of a session a control transfer needs only a position that fits. -/
theorem standsAt_goto {next : Phase} (hs : tracePos .stopped s.trace = some p) (fits : posFitsPhase next p = true)
    (hp : p ≠ .begun) : (goto next s).StandsAt p :=
  ⟨hs, fits, fun begun => absurd begun hp⟩

theorem standsAt_abortSession (hs : tracePos .stopped s.trace = some p) (hp : nextPos p .stopped = some .stopped) :
    (abortSession s).StandsAt .stopped :=
  ⟨tracePos_trace_append hs (by simp [tracePos, hp]), rfl, nofun⟩

/-- A bus operation ends at the phase that fits its answer, or in `Stopped` after the conditions of its error. -/
theorem standsAt_busOpEnds {bus : BusStep} {failed : Bool} {next : Phase}
    (hs : tracePos .stopped s.trace = some (.answered bus [] failed))
    (fits : ∀ f, posFitsPhase next (.answered bus [] f) = true) : ∃ q, (busOpEnds failed next s).StandsAt q := by
  obtain e | ⟨rfl, -, e⟩ := busOpEnds_cases s failed next <;> rw [e]
  · exact ⟨_, standsAt_goto hs (fits failed) nofun⟩
  · exact ⟨_, standsAt_abortSession hs (by cases bus <;> rfl)⟩

theorem standsAt_delayElapsed {d : DelayName} {next : Phase} (hs : s.StandsAt p) (hd : nextPos p (.delay d) = some q)
    (fits : posFitsPhase next q = true) (hq : q ≠ .begun) : ∃ q, (delayElapsed d next s).StandsAt q := by
  obtain ⟨htrace, -, -⟩ := hs
  exact ⟨q, standsAt_goto (tracePos_trace_append htrace (by simp [tracePos, hd])) fits hq⟩

theorem PhaseCase.standsAt (h : PhaseCase s t) (hs : s.StandsAt p) : ∃ q, t.StandsAt q := by
  obtain ⟨htrace, fits, hbegun⟩ := id hs
  cases h with
  | idle hp => exact ⟨p, hs⟩
  | waiting hb => exact ⟨p, hs⟩
  | hsSkipped hp hd =>
    have notBegun : p ≠ .begun := by
      intro begun
      simp [handshakeDue, hbegun begun] at hd
    obtain rfl : p = .rested := by simpa [posFitsPhase, hp, notBegun] using fits
    exact ⟨_, standsAt_goto htrace rfl notBegun⟩
  | hsAnswered a hp hd ha =>
    have before : p = .begun ∨ p = .rested := by simpa [posFitsPhase, hp] using fits
    rw [handshakeAnswered_eq]
    exact standsAt_busOpEnds (tracePos_trace_append htrace (tracePos_handshake before a)) (by decide)
  | inc hp =>
    rw [hp] at fits
    exact ⟨p, standsAt_goto htrace fits (by rintro rfl; simp [posFitsPhase] at fits)⟩
  | dlyCmd hp => exact standsAt_delayElapsed hs (nextPos_settleCmd (hp ▸ fits)) rfl nofun
  | pollAnswered a hp ha =>
    obtain rfl : p = .cmdSettled := by simpa [posFitsPhase, hp] using fits
    rw [pollAnswered_eq]
    exact standsAt_busOpEnds (tracePos_trace_append htrace (tracePos_pollRequest a)) (by decide)
  | dlyData hp => exact standsAt_delayElapsed hs (nextPos_settleData (hp ▸ fits)) rfl nofun
  | rd6Answered a hp ha =>
    obtain rfl : p = .dataSettled := by simpa [posFitsPhase, hp] using fits
    rw [readAnswered_eq]
    exact standsAt_busOpEnds (tracePos_trace_append htrace (tracePos_read a)) (by decide)
  | decrpt hp =>
    obtain ⟨q, hq, fits', notBegun⟩ := tracePos_reportEvents s (hp ▸ fits)
    exact ⟨q, standsAt_goto (tracePos_trace_append htrace hq) fits' notBegun⟩
  | dlyRest hp => exact standsAt_delayElapsed hs (nextPos_rest (hp ▸ fits)) rfl nofun
  | chk hp =>
    obtain rfl : p = .rested := by simpa [posFitsPhase, hp] using fits
    obtain ⟨-, e⟩ | ⟨-, e⟩ := cancellationChecked_cases s <;> rw [e]
    · exact ⟨_, standsAt_abortSession htrace rfl⟩
    · exact ⟨_, standsAt_goto htrace rfl nofun⟩

/-- A START keeps the position of a running session, and begins one from the position without. -/
theorem startCommand_standsAt (hs : s.StandsAt p) (hr : s.phase = .idle ↔ s.run = false) :
    ∃ q, (startCommand s).StandsAt q := by
  obtain ⟨htrace, fits, hbegun⟩ := hs
  obtain ⟨running, e⟩ | ⟨idle, e⟩ := startCommand_cases s <;> rw [e]
  · have notStopped : p ≠ .stopped := by
      rintro rfl
      simp [hr.1 (posFitsPhase_stopped.1 fits)] at running
    have same : tracePos p [.hostStart] = some p := by
      simp [tracePos, nextPos_hostStart notStopped, nextPos_hostStop fits]
    exact ⟨p, tracePos_trace_append htrace same, fits, hbegun⟩
  · obtain rfl : p = .stopped := by simpa [posFitsPhase, hr.2 idle] using fits
    exact ⟨.begun, tracePos_trace_append htrace rfl, rfl, fun _ => rfl⟩

theorem stopCommand_standsAt (hs : s.StandsAt p) : (stopCommand s).StandsAt p := by
  obtain ⟨htrace, fits, hbegun⟩ := hs
  have same : tracePos p [.hostStop] = some p := by simp [tracePos, nextPos_hostStop fits]
  obtain ⟨-, e⟩ | ⟨-, e⟩ := stopCommand_cases s <;> rw [e]
  · exact ⟨tracePos_trace_append htrace same, fits, hbegun⟩
  · exact ⟨tracePos_trace_append htrace same, fits, hbegun⟩

/-! RUN and PHASE, and the scenario. -/

theorem PhaseEnd.idle_iff (h : PhaseEnd s t) (hs : s.phase = .idle ↔ s.run = false) :
    t.phase = .idle ↔ t.run = false := by
  cases h with
  | stays => exact hs
  | goesOn next hi hn hw =>
    obtain ⟨-, sameRun, -⟩ := hw.control
    have running : s.run ≠ false := fun stopped => hi (hs.2 stopped)
    exact iff_of_false hn (sameRun ▸ running)
  | cancelled hp hq => exact iff_of_true rfl rfl
  | aborted hf hw => exact iff_of_true rfl rfl

/-- PHASE is IDLE exactly when no session runs, after a step as before it (10_state.md R12). -/
theorem StepEnd.idle_iff (h : StepEnd s t) (hs : s.phase = .idle ↔ s.run = false) :
    t.phase = .idle ↔ t.run = false := by
  cases h with
  | reset draw hh => exact iff_of_true rfl rfl
  | start hh =>
    obtain ⟨-, e⟩ | ⟨-, e⟩ := startCommand_cases (popItem s) <;> rw [e]
    · exact hs
    · exact iff_of_false nofun nofun
  | stop hh => obtain ⟨-, e⟩ | ⟨-, e⟩ := stopCommand_cases (popItem s) <;> rw [e] <;> exact hs
  | probe v => exact hs
  | phase items turn ht => exact ht.idle_iff hs

theorem busOpEnds_script (failed : Bool) (next : Phase) : (busOpEnds failed next s).script = s.script := by
  obtain e | ⟨-, -, e⟩ := busOpEnds_cases s failed next <;> rw [e] <;> rfl

theorem PhaseCase.script_suffix (h : PhaseCase s t) : t.script <:+ s.script := by
  cases h with
  | hsAnswered a hp hd ha => rw [handshakeAnswered_eq, busOpEnds_script]; exact List.tail_suffix _
  | pollAnswered a hp ha => rw [pollAnswered_eq, busOpEnds_script]; exact List.tail_suffix _
  | rd6Answered a hp ha => rw [readAnswered_eq, busOpEnds_script]; exact List.tail_suffix _
  | chk hp => obtain ⟨-, e⟩ | ⟨-, e⟩ := cancellationChecked_cases s <;> rw [e] <;> exact List.suffix_rfl
  | _ => exact List.suffix_rfl

/-- A step takes items from the head of the scenario and adds none. -/
theorem StepCase.script_suffix (h : StepCase s t) : t.script <:+ s.script := by
  cases h with
  | start hh => obtain ⟨-, e⟩ | ⟨-, e⟩ := startCommand_cases (popItem s) <;> rw [e] <;> exact List.tail_suffix _
  | stop hh => obtain ⟨-, e⟩ | ⟨-, e⟩ := stopCommand_cases (popItem s) <;> rw [e] <;> exact List.tail_suffix _
  | phase _ turn ht => exact ht.script_suffix
  | advanced _ hh hb ht => exact ht.script_suffix.trans (List.tail_suffix _)
  | _ => exact List.tail_suffix _

/-- But for a reset, a step keeps the trace in order and PHASE where the trace stands. -/
theorem StepCase.standsAt (h : StepCase s t) (hs : s.StandsAt p) (hr : s.phase = .idle ↔ s.run = false)
    (noReset : s.script.any isReset = false) : ∃ q, t.StandsAt q := by
  have popped : (popItem s).StandsAt p := hs
  cases h with
  | reset draw hh =>
    have isIn : Item.reset draw ∈ s.script := List.mem_of_head? hh
    exact absurd rfl (List.any_eq_false.1 noReset _ isIn)
  | passed hh hp => exact ⟨p, hs⟩
  | start hh => exact startCommand_standsAt popped hr
  | stop hh => exact ⟨p, stopCommand_standsAt popped⟩
  | probe v hn ht => exact ⟨p, hs⟩
  | phase _ turn ht => exact ht.standsAt hs
  | advanced _ hh hb ht => exact ht.standsAt popped

end

/-- Settles O42: each case of a step moves the trace's position to one that fits the new phase; RUN goes with PHASE, and the
scenario only loses items. -/
theorem stepKeepsAccessOrder : Obligations.StepKeepsAccessOrder := by
  intro s t hs h
  obtain ⟨noReset, hr, p, stands⟩ := inOrder_iff.1 hs
  have hcase := step_cases s h
  have stillNone : t.script.any isReset = false := by
    rw [List.any_eq_false] at noReset ⊢
    exact fun it hmem => noReset it (hcase.script_suffix.mem hmem)
  exact inOrder_iff.2 ⟨stillNone, (step_ends h).idle_iff hr, hcase.standsAt stands hr noReset⟩

/-- Settles O41: at reset nothing is recorded and no session runs. -/
theorem resetStateInOrder : Obligations.ResetStateInOrder := by
  intro cfg draw script noReset
  exact inOrder_iff.2 ⟨noReset, iff_of_true rfl rfl, .stopped, rfl, rfl, nofun⟩

/-! ### Data steers no control

The scenario of a state with its data taken out is a scenario again, so a state has a control part, which holds all that
`sameControl` compares. A step from a state and a step from its control part end alike; two states that agree have one control
part. -/

/-- Control of the two outcomes agrees: both go on, in agreement, or both are refused for one reason. -/
inductive SameOutcome : Host.Outcome State Fault Refusal → Host.Outcome State Fault Refusal → Prop where
  | next {s t : State} (h : sameControl s t) : SameOutcome (.next s) (.next t)
  | refused (r : Refusal) : SameOutcome (.refused r) (.refused r)

/-- An item of a shape, with fixed data. -/
def shapeItem : ItemShape → Item
  | .reset => .reset State.reset.frame
  | .start => .start
  | .stop => .stop
  | .wait => .wait
  | .advance => .advance
  | .probe => .probeByte 0
  | .w2 failed => .w2 (if failed then .err else .count 0)
  | .w1 failed => .w1 (if failed then .err else .count 0)
  | .r6 failed => .r6 (if failed then .err else .bytes ⟨[], Nat.zero_le _⟩)

/-- What of a state steers the sequencer; the rest is as after reset. -/
def controlPart (s : State) : State :=
  { State.reset with
    cfg := s.cfg, run := s.run, stopReq := s.stopReq, phase := s.phase, cycleCounter := s.cycleCounter,
    script := (s.script.map itemShape).map shapeItem }

theorem itemShape_shapeItem (shape : ItemShape) : itemShape (shapeItem shape) = shape := by
  cases shape with
  | w2 failed => cases failed <;> rfl
  | w1 failed => cases failed <;> rfl
  | r6 failed => cases failed <;> rfl
  | _ => rfl

section

variable {s t u : State}

theorem sameControl_controlPart (s : State) : sameControl s (controlPart s) := by
  refine ⟨rfl, rfl, rfl, rfl, rfl, ?_⟩
  simp [controlPart, Function.comp_def, itemShape_shapeItem]

theorem sameControl_of_common (hs : sameControl s u) (ht : sameControl t u) : sameControl s t := by
  obtain ⟨hcfg, hrun, hstop, hphase, hcounter, hshapes⟩ := ht
  simpa only [sameControl, hcfg, hrun, hstop, hphase, hcounter, hshapes] using hs

theorem controlPart_eq_of_sameControl (h : sameControl s t) : controlPart s = controlPart t := by
  obtain ⟨hcfg, hrun, hstop, hphase, hcounter, hshapes⟩ := h
  simp only [controlPart, hcfg, hrun, hstop, hphase, hcounter, hshapes]

@[simp] theorem controlPart_phase (s : State) : (controlPart s).phase = s.phase := rfl

@[simp] theorem controlPart_issuesBusOp (s : State) : issuesBusOp (controlPart s) = issuesBusOp s := rfl

/-- Two outcomes that agree with one outcome agree with each other. -/
theorem SameOutcome.join {o q c : Host.Outcome State Fault Refusal} (ho : SameOutcome o c) (hq : SameOutcome q c) :
    SameOutcome o q := by
  cases ho with
  | next hs => cases hq with | next ht => exact .next (sameControl_of_common hs ht)
  | refused r => cases hq with | refused => exact .refused r

theorem SameOutcome.agree {o q : Host.Outcome State Fault Refusal} (h : SameOutcome o q) :
    (∀ s', o = .next s' → ∃ t', q = .next t' ∧ sameControl s' t') ∧ (∀ r, o = .refused r → q = .refused r) := by
  cases h with
  | next h => exact ⟨fun s' e => ⟨_, rfl, Host.Outcome.next.inj e ▸ h⟩, by simp⟩
  | refused r => exact ⟨by simp, fun r' e => e⟩

/-! Each operation over the state, on two states that agree. -/

theorem noted_sameControl (h : sameControl s t) (es es' : List Event) : sameControl (noted es s) (noted es' t) := h

theorem received_sameControl (h : sameControl s t) (a b : ReadAnswer) : sameControl (received a s) (received b t) := h

theorem goto_sameControl (h : sameControl s t) (p : Phase) : sameControl (goto p s) (goto p t) := by
  obtain ⟨hcfg, hrun, hstop, -, hrest⟩ := h
  exact ⟨hcfg, hrun, hstop, rfl, hrest⟩

theorem delayElapsed_sameControl (h : sameControl s t) (d : DelayName) (p : Phase) :
    sameControl (delayElapsed d p s) (delayElapsed d p t) := goto_sameControl h p

theorem abortSession_sameControl (h : sameControl s t) : sameControl (abortSession s) (abortSession t) := by
  obtain ⟨hcfg, -, -, -, hrest⟩ := h
  exact ⟨hcfg, rfl, rfl, rfl, hrest⟩

theorem resetBlock_sameControl (h : sameControl s t) (f g : Frame) : sameControl (resetBlock f s) (resetBlock g t) := by
  obtain ⟨hcfg, -, -, -, -, hshapes⟩ := h
  exact ⟨hcfg, rfl, rfl, rfl, rfl, hshapes⟩

theorem popItem_sameControl (h : sameControl s t) : sameControl (popItem s) (popItem t) := by
  obtain ⟨hcfg, hrun, hstop, hphase, hcounter, hshapes⟩ := h
  exact ⟨hcfg, hrun, hstop, hphase, hcounter, by simp only [popItem_script, List.map_tail, hshapes]⟩

theorem counted_sameControl (h : sameControl s t) :
    sameControl { s with cycleCounter := nextCounter s.cfg.cw s.cycleCounter }
      { t with cycleCounter := nextCounter t.cfg.cw t.cycleCounter } := by
  obtain ⟨hcfg, hrun, hstop, hphase, hcounter, hshapes⟩ := h
  exact ⟨hcfg, hrun, hstop, hphase, by rw [hcfg, hcounter], hshapes⟩

theorem startCommand_sameControl (h : sameControl s t) : sameControl (startCommand s) (startCommand t) := by
  obtain ⟨hcfg, hrun, hstop, hphase, hcounter, hshapes⟩ := h
  cases hr : s.run with
  | true =>
    rw [startCommand_running s hr, startCommand_running t (hrun ▸ hr)]
    exact ⟨hcfg, hrun, hstop, hphase, hcounter, hshapes⟩
  | false =>
    rw [startCommand_stopped s hr, startCommand_stopped t (hrun ▸ hr)]
    exact ⟨hcfg, rfl, rfl, rfl, rfl, hshapes⟩

theorem stopCommand_sameControl (h : sameControl s t) : sameControl (stopCommand s) (stopCommand t) := by
  obtain ⟨hcfg, hrun, hstop, hrest⟩ := h
  cases hr : s.run with
  | true =>
    rw [stopCommand_running s hr, stopCommand_running t (hrun ▸ hr)]
    exact ⟨hcfg, hrun, rfl, hrest⟩
  | false =>
    rw [stopCommand_stopped s hr, stopCommand_stopped t (hrun ▸ hr)]
    exact ⟨hcfg, hrun, hstop, hrest⟩

theorem cancellationChecked_sameControl (h : sameControl s t) :
    sameControl (cancellationChecked s) (cancellationChecked t) := by
  obtain ⟨-, -, hstop, -⟩ := id h
  cases hq : s.stopReq with
  | true =>
    rw [cancellationChecked_pending s hq, cancellationChecked_pending t (hstop ▸ hq)]
    exact abortSession_sameControl h
  | false =>
    rw [cancellationChecked_clear s hq, cancellationChecked_clear t (hstop ▸ hq)]
    exact goto_sameControl h .hs

theorem busOpEnds_sameControl (h : sameControl s t) (failed : Bool) (next : Phase) :
    sameControl (busOpEnds failed next s) (busOpEnds failed next t) := by
  obtain ⟨hcfg, -⟩ := id h
  cases failed with
  | false => exact goto_sameControl h next
  | true =>
    unfold busOpEnds afterError
    rw [hcfg]
    cases t.cfg.terrFatal with
    | true => exact abortSession_sameControl h
    | false => exact goto_sameControl h next

theorem handshakeAnswered_sameControl (h : sameControl s t) {a b : WriteAnswer 2}
    (hab : itemShape (.w2 a) = itemShape (.w2 b)) : sameControl (handshakeAnswered a s) (handshakeAnswered b t) := by
  have sameEnd : decide (a = .err) = decide (b = .err) := ItemShape.w2.inj hab
  rw [handshakeAnswered_eq, handshakeAnswered_eq, sameEnd]
  exact busOpEnds_sameControl (noted_sameControl h _ _) _ _

theorem pollAnswered_sameControl (h : sameControl s t) {a b : WriteAnswer 1}
    (hab : itemShape (.w1 a) = itemShape (.w1 b)) : sameControl (pollAnswered a s) (pollAnswered b t) := by
  have sameEnd : decide (a = .err) = decide (b = .err) := ItemShape.w1.inj hab
  rw [pollAnswered_eq, pollAnswered_eq, sameEnd]
  exact busOpEnds_sameControl (noted_sameControl h _ _) _ _

theorem readAnswered_sameControl (h : sameControl s t) {a b : ReadAnswer}
    (hab : itemShape (.r6 a) = itemShape (.r6 b)) : sameControl (readAnswered a s) (readAnswered b t) := by
  have sameEnd : decide (a = .err) = decide (b = .err) := ItemShape.r6.inj hab
  rw [readAnswered_eq, readAnswered_eq, sameEnd]
  exact busOpEnds_sameControl (noted_sameControl (received_sameControl h _ _) _ _) _ _

/-! The operation that PHASE selects. -/

theorem issuesBusOp_of_sameControl (h : sameControl s t) : issuesBusOp s = issuesBusOp t := by
  obtain ⟨-, -, -, hphase, hcounter, -⟩ := h
  simp only [issuesBusOp, handshakeDue, hphase, hcounter]

/-- A phase operation that issues no request ends alike on two states that agree. -/
theorem exec_sameOutcome (h : sameControl s t) (hb : issuesBusOp s = false) :
    SameOutcome (exec s.phase.instr s) (exec t.phase.instr t) := by
  obtain ⟨-, -, -, hphase, -⟩ := id h
  have hb' : issuesBusOp t = false := issuesBusOp_of_sameControl h ▸ hb
  rw [← hphase]
  cases hp : s.phase with
  | idle => exact .next h
  | hs =>
    have notDue : handshakeDue s = false := (issuesBusOp_hs hp).symm.trans hb
    have notDue' : handshakeDue t = false := (issuesBusOp_hs (hphase ▸ hp)).symm.trans hb'
    simp only [Phase.instr]
    rw [exec_hs_skips s notDue, exec_hs_skips t notDue']
    exact .next (goto_sameControl h .inc)
  | inc => exact .next (goto_sameControl (counted_sameControl h) .dlyCmd)
  | dlyCmd => exact .next (delayElapsed_sameControl h .settleCmd .poll)
  | poll => simp [issuesBusOp_poll hp] at hb
  | dlyData => exact .next (delayElapsed_sameControl h .settleData .rd6)
  | rd6 => simp [issuesBusOp_rd6 hp] at hb
  | decrpt => exact .next (goto_sameControl h .dlyRest)
  | dlyRest => exact .next (delayElapsed_sameControl h .rest .chk)
  | chk => exact .next (cancellationChecked_sameControl h)

/-! The step, by the head of the scenario. -/

theorem step_of_fetch_run {i : Instr} (hf : fetch s = .run i u) : step s = exec i u := by simp [step, hf]

theorem step_of_fetch_environment (hf : fetch s = .environment u) : step s = .next u := by simp [step, hf]

theorem step_wait {rest : List Item} (hs : s.script = .wait :: rest) :
    step s =
      if s.phase = .idle then .next (popItem s)
      else if issuesBusOp s then .refused (.malformedScenario .waitAtBusOperation)
      else exec s.phase.instr s := by
  simp only [step, fetch, hs]
  split_ifs <;> rfl

theorem step_advance {rest : List Item} (hs : s.script = .advance :: rest) :
    step s =
      if s.phase = .idle then .next (popItem s)
      else if issuesBusOp s then .refused (.malformedScenario .advanceAtBusOperation)
      else exec s.phase.instr (popItem s) := by
  simp only [step, fetch, hs]
  split_ifs <;> rfl

theorem fetch_answer {it : Item} {rest : List Item} (hs : s.script = it :: rest) (ha : isAnswer it = true) :
    fetch s = fetchAnswer s it := by
  cases it with
  | w2 a => simp [fetch, hs]
  | w1 a => simp [fetch, hs]
  | r6 a => simp [fetch, hs]
  | _ => simp [isAnswer] at ha

theorem step_answer {it : Item} {rest : List Item} (hs : s.script = it :: rest) (ha : isAnswer it = true) :
    step s =
      if s.phase = .idle then .refused (.malformedScenario .answerWhileIdle)
      else if issuesBusOp s && !answersPhase s.phase it then .refused (.malformedScenario .wrongAnswerShape)
      else exec s.phase.instr s := by
  rw [step, fetch_answer hs ha, fetchAnswer]
  split_ifs <;> rfl

theorem step_probeByte {b : Byte} {rest : List Item} (hs : s.script = .probeByte b :: rest) :
    step s = .next (showDecoded (.byte (deobf b)) (popItem s)) := by
  simp only [step, fetch, hs]
  rfl

theorem step_probeFrame {fn : FrameFn} {w : BitVec 48} {rest : List Item} (hs : s.script = .probeFrame fn w :: rest) :
    ∃ v, step s = .next (showDecoded v (popItem s)) := by
  have run : fetch s = .run (fn.instr (Frame.ofBits w)) (popItem s) := by simp [fetch, hs]
  rw [step_of_fetch_run run]
  cases fn <;> exact ⟨_, rfl⟩

end

/-! A step of a state and of its control part. -/

section

variable {s : State} {it : Item} {rest rest' : List Item} (hs : s.script = it :: rest)
  (ht : (controlPart s).script = shapeItem (itemShape it) :: rest')

include hs ht

/-- The request's answer, and the one of its shape. -/
theorem exec_answered_sameOutcome (hb : issuesBusOp s = true) (fits : answersPhase s.phase it = true) :
    SameOutcome (exec s.phase.instr s) (exec s.phase.instr (controlPart s)) := by
  have popped : sameControl (popItem s) (popItem (controlPart s)) := popItem_sameControl (sameControl_controlPart s)
  have shape := (itemShape_shapeItem (itemShape it)).symm
  cases it with
  | w2 a =>
    have hp : s.phase = .hs := of_decide_eq_true fits
    have due : handshakeDue s = true := (issuesBusOp_hs hp).symm.trans hb
    simp only [hp, Phase.instr]
    rw [exec_hs_answered s a rest due hs, exec_hs_answered (controlPart s) _ rest' due ht]
    exact .next (handshakeAnswered_sameControl popped shape)
  | w1 a =>
    have hp : s.phase = .poll := of_decide_eq_true fits
    simp only [hp, Phase.instr]
    rw [exec_poll_answered s a rest hs, exec_poll_answered (controlPart s) _ rest' ht]
    exact .next (pollAnswered_sameControl popped shape)
  | r6 a =>
    have hp : s.phase = .rd6 := of_decide_eq_true fits
    simp only [hp, Phase.instr]
    rw [exec_rd6_answered s a rest hs, exec_rd6_answered (controlPart s) _ rest' ht]
    exact .next (readAnswered_sameControl popped shape)
  | _ => simp [answersPhase] at fits

theorem step_answer_sameOutcome (ha : isAnswer it = true) : SameOutcome (step s) (step (controlPart s)) := by
  have ha' : isAnswer (shapeItem (itemShape it)) = true := by cases it <;> exact ha
  have sameFit : answersPhase s.phase (shapeItem (itemShape it)) = answersPhase s.phase it := by cases it <;> rfl
  rw [step_answer hs ha, step_answer ht ha', controlPart_phase, controlPart_issuesBusOp, sameFit]
  split_ifs with hi hb
  · exact .refused _
  · exact .refused _
  · cases request : issuesBusOp s with
    | true => exact exec_answered_sameOutcome hs ht request (by simpa [request] using hb)
    | false => exact exec_sameOutcome (sameControl_controlPart s) request

end

/-- A state and its control part take steps that agree: the case split of the step on the head of the scenario. -/
theorem step_controlPart (s : State) : SameOutcome (step s) (step (controlPart s)) := by
  have h : sameControl s (controlPart s) := sameControl_controlPart s
  have popped : sameControl (popItem s) (popItem (controlPart s)) := popItem_sameControl h
  cases hs : s.script with
  | nil =>
    have ht : (controlPart s).script = [] := by simp [controlPart, hs]
    rw [step_empty hs, step_empty ht]
    cases hb : issuesBusOp s with
    | true => rw [exec_unanswered hb hs, exec_unanswered (s := controlPart s) hb ht]; exact .next h
    | false => exact exec_sameOutcome h hb
  | cons it rest =>
    obtain ⟨rest', ht⟩ : ∃ rest', (controlPart s).script = shapeItem (itemShape it) :: rest' :=
      ⟨(rest.map itemShape).map shapeItem, by simp only [controlPart, hs, List.map_cons]⟩
    cases it with
    | reset draw =>
      rw [step_of_fetch_environment (fetch_reset s draw rest hs), step_of_fetch_environment (fetch_reset _ _ rest' ht)]
      exact .next (resetBlock_sameControl popped _ _)
    | start =>
      rw [step_of_fetch_run (fetch_start s rest hs), step_of_fetch_run (fetch_start _ rest' ht)]
      exact .next (startCommand_sameControl popped)
    | stop =>
      rw [step_of_fetch_run (fetch_stop s rest hs), step_of_fetch_run (fetch_stop _ rest' ht)]
      exact .next (stopCommand_sameControl popped)
    | wait =>
      rw [step_wait hs, step_wait ht, controlPart_phase, controlPart_issuesBusOp]
      split_ifs with hi hb
      · exact .next popped
      · exact .refused _
      · exact exec_sameOutcome h (Bool.eq_false_of_not_eq_true hb)
    | advance =>
      rw [step_advance hs, step_advance ht, controlPart_phase, controlPart_issuesBusOp]
      split_ifs with hi hb
      · exact .next popped
      · exact .refused _
      · exact exec_sameOutcome popped (Bool.eq_false_of_not_eq_true hb)
    | w2 a => exact step_answer_sameOutcome hs ht rfl
    | w1 a => exact step_answer_sameOutcome hs ht rfl
    | r6 a => exact step_answer_sameOutcome hs ht rfl
    | probeByte b =>
      rw [step_probeByte hs, step_probeByte ht]
      exact .next popped
    | probeFrame fn w =>
      obtain ⟨v, e⟩ := step_probeFrame hs
      rw [e, step_probeByte ht]
      exact .next popped

/-- Settles O44: both states step as their one control part does. -/
theorem dataNeverSteersControl : Obligations.DataNeverSteersControl := by
  intro s t h
  have ofS := step_controlPart s
  have ofT := step_controlPart t
  rw [← controlPart_eq_of_sameControl h] at ofT
  exact (ofS.join ofT).agree

/-! ### The values on the sink -/

section

variable {s t : State}

/-- Eight bits and one bit are in the ranges of the sticks and the buttons; the accelerations fill theirs (20_memory.md R43). -/
theorem sampleEvents_inRange (v : Sample) : (sampleEvents v).all sinkInRange = true := by
  have stick (b : BitVec 8) : b.toNat % 1024 ≤ 255 := (Nat.mod_le _ _).trans (Nat.le_of_lt_succ b.isLt)
  have accel (b : BitVec 10) : b.toNat ≤ 1023 := Nat.le_of_lt_succ b.isLt
  have button (b : BitVec 1) : b.toNat % 1024 ≤ 1 := (Nat.mod_le _ _).trans (Nat.le_of_lt_succ b.isLt)
  simp [sampleEvents, sinkInRange, channelLimit, stick, accel, button]

theorem reportEvents_inRange (s : State) : (reportEvents s).all sinkInRange = true := by
  unfold reportEvents
  split
  · rfl
  · exact sampleEvents_inRange _

theorem handshakeConds_inRange (a : WriteAnswer 2) : (handshakeConds a).all sinkInRange = true := by
  cases a with
  | err => rfl
  | count k => by_cases h : k.val < 2 <;> simp [handshakeConds, h, sinkInRange]

theorem pollConds_inRange (a : WriteAnswer 1) : (pollConds a).all sinkInRange = true := by
  cases a with
  | err => rfl
  | count k => by_cases h : k.val = 0 <;> simp [pollConds, h, sinkInRange]

theorem readConds_inRange (a : ReadAnswer) : (readConds a).all sinkInRange = true := by
  cases a with
  | err => rfl
  | bytes bs => by_cases h : bs.val.length < 6 <;> simp [readConds, h, sinkInRange]

theorem busOpEnds_inRange (failed : Bool) (next : Phase) (hs : s.trace.all sinkInRange = true) :
    (busOpEnds failed next s).trace.all sinkInRange = true := by
  obtain e | ⟨-, -, e⟩ := busOpEnds_cases s failed next <;> rw [e]
  · exact hs
  · simp [hs, sinkInRange]

theorem PhaseCase.inRange (h : PhaseCase s t) (hs : s.trace.all sinkInRange = true) : t.trace.all sinkInRange = true := by
  cases h with
  | idle hp => exact hs
  | waiting hb => exact hs
  | hsSkipped hp hd => exact hs
  | hsAnswered a hp hd ha =>
    rw [handshakeAnswered_eq]
    exact busOpEnds_inRange _ _ (by simp [noted, hs, sinkInRange, handshakeConds_inRange])
  | inc hp => exact hs
  | dlyCmd hp => simp [hs, sinkInRange]
  | pollAnswered a hp ha =>
    rw [pollAnswered_eq]
    exact busOpEnds_inRange _ _ (by simp [noted, hs, sinkInRange, pollConds_inRange])
  | dlyData hp => simp [hs, sinkInRange]
  | rd6Answered a hp ha =>
    rw [readAnswered_eq]
    exact busOpEnds_inRange _ _ (by simp [noted, received, hs, sinkInRange, readConds_inRange])
  | decrpt hp => simp [hs, reportEvents_inRange]
  | dlyRest hp => simp [hs, sinkInRange]
  | chk hp => obtain ⟨-, e⟩ | ⟨-, e⟩ := cancellationChecked_cases s <;> rw [e] <;> simp [hs, sinkInRange]

end

/-- Settles O45: only DECRPT records sink events, those of a Sample; every other event is in range for want of a value. -/
theorem sinkValuesStayInRange : Obligations.SinkValuesStayInRange := by
  intro s t h hs
  cases step_cases s h with
  | reset draw hh => exact hs
  | passed hh hp => exact hs
  | start hh => simp [startCommand_trace, hs, sinkInRange]
  | stop hh => simp [stopCommand_trace, hs, sinkInRange]
  | probe v hn ht => exact hs
  | phase _ turn ht => exact ht.inRange hs
  | advanced _ hh hb ht => exact ht.inRange hs

end Sys2Proof.Machine

/-! PROOFS. The encoding (30_encoding.md): every operation is one of the opcode table's formats, and each format's word is
decoded and encoded by one equation; and what a step runs, by where the operation was placed. -/

namespace Sys2Proof

/-! ### The step codes -/

theorem code_toNat_le (p : Phase) : p.code.toNat ≤ 9 := by
  cases p <;> decide

/-- A code is a step's, or it is rejected by its own name. -/
theorem ofCode_cases (c : BitVec 4) :
    (∃ p, Phase.ofCode c = .ok p) ∨ Phase.ofCode c = .error (.reservedPhase c) := by
  unfold Phase.ofCode
  iterate 10
    split
    · exact .inl ⟨_, rfl⟩
  exact .inr rfl

/-- Codes 10 to 15 are no step's (30_encoding.md R60). -/
theorem ofCode_reserved {c : BitVec 4} (h : 10 ≤ c.toNat) : Phase.ofCode c = .error (.reservedPhase c) := by
  obtain ⟨p, hp⟩ | e := ofCode_cases c
  · have := code_toNat_le p
    rw [ofCode_ok hp] at this
    omega
  · exact e

/-- Each of the codes 0 to 9 is some step's (30_encoding.md R51). -/
theorem exists_code {c : BitVec 4} (h : c.toNat ≤ 9) : ∃ p : Phase, p.code = c := by
  rw [show c = BitVec.ofNat 4 c.toNat by simp]
  interval_cases c.toNat
  · exact ⟨.idle, rfl⟩
  · exact ⟨.hs, rfl⟩
  · exact ⟨.inc, rfl⟩
  · exact ⟨.dlyCmd, rfl⟩
  · exact ⟨.poll, rfl⟩
  · exact ⟨.dlyData, rfl⟩
  · exact ⟨.rd6, rfl⟩
  · exact ⟨.decrpt, rfl⟩
  · exact ⟨.dlyRest, rfl⟩
  · exact ⟨.chk, rfl⟩

/-! ### The three formats of the opcode table -/

/-- Every operation by the format of its word: a step code, one of the two commands, or an operand of the decoder. -/
inductive InFormat : Instr → Prop where
  | phase (p : Phase) : InFormat p.instr
  | start : InFormat .start
  | stop : InFormat .stop
  | byte (b : Byte) : InFormat (.deobf b)
  | frame (fn : FrameFn) (f : Frame) : InFormat (fn.instr f)

theorem inFormat (i : Instr) : InFormat i := by
  cases i with
  | idle => exact .phase .idle
  | hs => exact .phase .hs
  | inc => exact .phase .inc
  | dlyCmd => exact .phase .dlyCmd
  | poll => exact .phase .poll
  | dlyData => exact .phase .dlyData
  | rd6 => exact .phase .rd6
  | decrpt => exact .phase .decrpt
  | dlyRest => exact .phase .dlyRest
  | chk => exact .phase .chk
  | start => exact .start
  | stop => exact .stop
  | deobf b => exact .byte b
  | deobf6 f => exact .frame .deobf6 f
  | stickX d => exact .frame .stickX d
  | stickY d => exact .frame .stickY d
  | accelX d => exact .frame .accelX d
  | accelY d => exact .frame .accelY d
  | accelZ d => exact .frame .accelZ d
  | buttonC d => exact .frame .buttonC d
  | buttonZ d => exact .frame .buttonZ d
  | decode f => exact .frame .decode f

@[simp] theorem encode_phase_instr (p : Phase) : encode p.instr = .ph p.code := by
  cases p <;> rfl

@[simp] theorem encode_frameFn_instr (fn : FrameFn) (f : Frame) : encode (fn.instr f) = .fr48 fn f.toBits := by
  cases fn <;> rfl

theorem decode_fr48_toBits (fn : FrameFn) (f : Frame) : decode (.fr48 fn f.toBits) = .ok (fn.instr f) := by
  rw [decode, ofBits_toBits]

/-- A well-formed PH word holds one of the ten codes. -/
theorem wellFormed_ph_iff (c : BitVec 4) : (OpWord.ph c).wellFormed = true ↔ c.toNat ≤ 9 := by
  simp [OpWord.wellFormed, BitVec.le_def]

/-- Settles O1: one case per format; a step's code is found again, and packing a frame loses no bit. -/
theorem decodeEncodeGivesInstr : Obligations.DecodeEncodeGivesInstr := by
  intro i _
  cases inFormat i with
  | phase p =>
    rw [encode_phase_instr, wellFormed_ph_iff]
    exact ⟨decode_ph_code p, code_toNat_le p⟩
  | start => exact ⟨rfl, rfl⟩
  | stop => exact ⟨rfl, rfl⟩
  | byte b => exact ⟨rfl, rfl⟩
  | frame fn f =>
    rw [encode_frameFn_instr]
    exact ⟨decode_fr48_toBits fn f, rfl⟩

/-- Settles O2: one case per format; unpacking a 48-bit word and packing it again gives the word. -/
theorem encodeDecodeGivesWord : Obligations.EncodeDecodeGivesWord := by
  intro w hw
  cases w with
  | ph c =>
    obtain ⟨p, rfl⟩ := exists_code ((wellFormed_ph_iff c).mp hw)
    exact ⟨p.instr, decode_ph_code p, encode_phase_instr p⟩
  | cmd word =>
    have one : word = 0b01 ∨ word = 0b10 := by simpa [OpWord.wellFormed] using hw
    obtain rfl | rfl := one
    · exact ⟨.start, rfl, rfl⟩
    · exact ⟨.stop, rfl, rfl⟩
  | byte b => exact ⟨.deobf b, rfl, rfl⟩
  | fr48 fn w => exact ⟨fn.instr (Frame.ofBits w), rfl, by rw [encode_frameFn_instr, toBits_ofBits]⟩

/-- Settles O4: the step codes decode by their lemma, the other words by evaluation. -/
theorem tableWordsDecode : Obligations.TableWordsDecode :=
  ⟨decode_ph_code .idle, decode_ph_code .hs, decode_ph_code .decrpt, rfl, rfl, rfl, rfl, rfl, rfl⟩

/-! ### The frame word -/

/-- Byte `k` of a packed frame at bits `8k+7 : 8k` (30_encoding.md R52). -/
theorem toBits_getLsbD_frameByte (f : Frame) (k : Fin 6) (i : Nat) (hi : i < 8) :
    f.toBits.getLsbD (8 * k.val + i) = (Machine.frameByte f k).getLsbD i := by
  obtain ⟨h0, h1, h2, h3, h4, h5⟩ := toBits_getLsbD f i hi
  fin_cases k
  · simpa [Machine.frameByte] using h0
  · exact h1
  · exact h2
  · exact h3
  · exact h4
  · exact h5

/-- Settles O5: unpacking is read off packing, because the word is the packed word of its own bytes. -/
theorem frameWordBytePositions : Obligations.FrameWordBytePositions := by
  refine ⟨toBits_getLsbD_frameByte, fun w k i hi => ?_⟩
  rw [← toBits_getLsbD_frameByte (Frame.ofBits w) k i hi, toBits_ofBits]

end Sys2Proof

namespace Sys2Proof.Machine

open Sys2Proof

/-! ### A step code found by a clocked block -/

/-- Settles O3: a reserved code is no step's, so decoding it and finding it in PHASE both fall to the rejection. -/
theorem reservedPhaseCodeLandsIdle : Obligations.ReservedPhaseCodeLandsIdle := by
  constructor
  · intro c s hc
    have reserved := ofCode_reserved hc
    refine ⟨by rw [decode, reserved], ?_, by rw [phaseFound, reserved]⟩
    rintro p rfl
    have := code_toNat_le p
    omega
  · intro p s
    rw [phaseFound, ofCode_code]
    rfl

/-! ### What a step runs -/

section

variable {s : State} {rest : List Item}

/-- The state with the head of the scenario taken. -/
theorem popItem_of_script {it : Item} (h : s.script = it :: rest) : popItem s = { s with script := rest } := by
  simp [popItem, h]

theorem step_start (h : s.script = .start :: rest) : step s = exec .start { s with script := rest } := by
  rw [step_of_fetch_run (fetch_start s rest h), popItem_of_script h]

theorem step_stop (h : s.script = .stop :: rest) : step s = exec .stop { s with script := rest } := by
  rw [step_of_fetch_run (fetch_stop s rest h), popItem_of_script h]

theorem step_probeByte_runs {b : Byte} (h : s.script = .probeByte b :: rest) :
    step s = exec (.deobf b) { s with script := rest } := by
  rw [step_probeByte h, popItem_of_script h]
  rfl

theorem step_probeFrame_runs {fn : FrameFn} {w : BitVec 48} (h : s.script = .probeFrame fn w :: rest) :
    step s = exec (fn.instr (Frame.ofBits w)) { s with script := rest } := by
  have run : fetch s = .run (fn.instr (Frame.ofBits w)) (popItem s) := by simp [fetch, h]
  rw [step_of_fetch_run run, popItem_of_script h]

end

/-- Settles O27: the operation is the one PHASE selects; an answer at the head is the right one or is not looked at. -/
theorem stepRunsSelectedOperation : Obligations.StepRunsSelectedOperation := by
  intro s i hi
  rw [decode_ph_code] at hi
  obtain rfl : s.phase.instr = i := Except.ok.inj hi
  refine ⟨step_empty, fun it rest hs ha hp hfits => ?_, fun rest hs hp hb => ?_⟩
  · have shape : (issuesBusOp s && !answersPhase s.phase it) = false := by
      cases hb : issuesBusOp s with
      | true => simp [hfits hb]
      | false => rfl
    rw [step_answer hs ha, if_neg hp, shape]
    rfl
  · rw [step_of_fetch_run (fetch_advance s rest hs hp hb), popItem_of_script hs]

/-- Settles O28: each of the four items is fetched as its operation, with the item taken. -/
theorem stepRunsScenarioHead : Obligations.StepRunsScenarioHead := by
  intro s rest
  refine ⟨fun h => ⟨rfl, step_start h⟩, fun h => ⟨rfl, step_stop h⟩, fun b i h hi => ?_, fun fn w i h hi => ?_⟩
  · obtain rfl : .deobf b = i := Except.ok.inj hi
    exact step_probeByte_runs h
  · obtain rfl : fn.instr (Frame.ofBits w) = i := Except.ok.inj hi
    exact step_probeFrame_runs h

/-- Settles O30: a step on each of the two items is decided by PHASE and by whether a request would be issued. -/
theorem waitItemStep : Obligations.WaitItemStep := by
  intro s rest
  constructor
  · intro h
    rw [step_wait h, popItem_of_script h]
    refine ⟨fun hp => if_pos hp, fun hp hb => ?_, fun hb => ?_⟩
    · simp [hp, hb]
    · simp [phase_ne_idle_of_issuesBusOp hb, hb]
  · intro h
    rw [step_advance h, popItem_of_script h]
    refine ⟨fun hp => if_pos hp, fun hb => ?_⟩
    simp [phase_ne_idle_of_issuesBusOp hb, hb]

/-- Settles O31: an answer is fetched only outside IDLE and, at a bus operation, only in its shape. -/
theorem malformedScenarioRefused : Obligations.MalformedScenarioRefused := by
  intro s it rest hs ha
  rw [step_answer hs ha]
  refine ⟨fun hp => if_pos hp, fun hb hshape => ?_⟩
  simp [phase_ne_idle_of_issuesBusOp hb, hb, hshape]

/-! ### A placed table word -/

section

variable {s : State}

theorem withFetchWord_of_decode {nbits w : Nat} {i : Instr} (h : decodeTableWord nbits w = some i) :
    s.withFetchWord nbits w = placeInstr i s := by
  simp [State.withFetchWord, placeTableWord, h]

theorem placeInstr_phase (p : Phase) : placeInstr p.instr s = placePhase p s := by
  cases p <;> rfl

theorem placeInstr_frame (fn : FrameFn) (f : Frame) :
    placeInstr (fn.instr f) s = placeItem (.probeFrame fn f.toBits) s := by
  cases fn <;> rfl

/-- What is placed beside a phase is nothing, or one answer in the shape of the phase's request. -/
theorem successAnswer_cases (p : Phase) :
    successAnswer p = [] ∨
      p ≠ .idle ∧ ∃ it, successAnswer p = [it] ∧ isAnswer it = true ∧ answersPhase p it = true := by
  cases p with
  | hs => exact .inr ⟨by simp, _, rfl, rfl, rfl⟩
  | poll => exact .inr ⟨by simp, _, rfl, rfl, rfl⟩
  | rd6 => exact .inr ⟨by simp, _, rfl, rfl, rfl⟩
  | _ => exact .inl rfl

/-- The step after a phase is placed performs that phase's operation. -/
theorem step_placePhase (p : Phase) : step (placePhase p s) = exec p.instr (placePhase p s) := by
  obtain none | ⟨hp, it, one, ha, fits⟩ := successAnswer_cases p
  · exact step_empty none
  · exact step_fits (placePhase p s) it [] hp one ha fits

/-- With full success at hand no phase but IDLE stays where it is (41_sequencer.md R90). -/
theorem exec_placePhase_moves {p : Phase} (hp : p ≠ .idle) :
    ∃ t, exec p.instr (placePhase p s) = .next t ∧ t.phase ≠ p := by
  cases p with
  | idle => exact absurd rfl hp
  | hs =>
    cases due : handshakeDue (placePhase .hs s) with
    | false => exact ⟨_, exec_hs_skips _ due, by simp⟩
    | true =>
      refine ⟨_, exec_hs_answered _ (.count 2) [] due rfl, ?_⟩
      rw [handshakeAnswered_full _ 2 rfl]
      simp
  | poll =>
    refine ⟨_, exec_poll_answered _ (.count 1) [] rfl, ?_⟩
    rw [pollAnswered_full _ 1 rfl]
    simp
  | rd6 =>
    refine ⟨_, exec_rd6_answered _ _ [] rfl, ?_⟩
    rw [readAnswered_full _ _ rfl]
    simp
  | chk =>
    refine ⟨_, exec_chk _, ?_⟩
    obtain ⟨-, e⟩ | ⟨-, e⟩ := cancellationChecked_cases (placePhase .chk s) <;> simp [e]
  | inc => exact ⟨_, exec_inc _, by simp⟩
  | dlyCmd => exact ⟨_, exec_dlyCmd _, by simp⟩
  | dlyData => exact ⟨_, exec_dlyData _, by simp⟩
  | decrpt => exact ⟨_, exec_decrpt _, by simp⟩
  | dlyRest => exact ⟨_, exec_dlyRest _, by simp⟩

/-- The step after a command or a decoder function is placed performs it, the item taken. -/
theorem step_placeInstr {i : Instr} (h : ∀ p : Phase, i ≠ p.instr) :
    step (placeInstr i s) = exec i { s with script := [] } := by
  cases inFormat i with
  | phase p => exact absurd rfl (h p)
  | start => exact step_start rfl
  | stop => exact step_stop rfl
  | byte b => exact step_probeByte_runs rfl
  | frame fn f =>
    rw [placeInstr_frame, step_probeFrame_runs (placeItem_script s _), ofBits_toBits]
    rfl

end

/-- Settles O33: the placed word is the placed operation, and a step on a placed operation runs it. -/
theorem placedWordRuns : Obligations.PlacedWordRuns := by
  intro s nbits w i hw
  rw [withFetchWord_of_decode hw]
  refine ⟨?_, step_placeInstr⟩
  rintro p rfl
  rw [placeInstr_phase, step_placePhase]
  exact ⟨rfl, exec_placePhase_moves⟩

end Sys2Proof.Machine

/-! PROOFS. The ports of the clocked rendering (30_encoding.md R55, R56, R61) and its edge against the transaction level
(92_eei_decisions.md D1). The sequencer's move at an edge is inverted once: it waits, or it performs the phase operation on the
answer the port shows; the refinement and the condition pulses are both read off that. -/

namespace Sys2Proof.Machine

open Sys2Proof

/-! ### The request words -/

section

variable {s : State}

theorem outstandingRequest_hs (hp : s.phase = .hs) (hd : handshakeDue s = true) :
    outstandingRequest s = some 0x20040 := by
  simp only [outstandingRequest, hp, hd, if_true]
  rfl

theorem outstandingRequest_poll (hp : s.phase = .poll) : outstandingRequest s = some 0x10000 := by
  simp only [outstandingRequest, hp]
  rfl

theorem outstandingRequest_rd6 (hp : s.phase = .rd6) : outstandingRequest s = some 0xE0000 := by
  simp only [outstandingRequest, hp]
  rfl

/-- The port holds a request only while the sequencer's next step issues one. -/
theorem outstandingRequest_none (hb : issuesBusOp s = false) : outstandingRequest s = none := by
  cases hp : s.phase with
  | hs =>
    have notDue : handshakeDue s = false := (issuesBusOp_hs hp).symm.trans hb
    simp [outstandingRequest, hp, notDue]
  | poll => simp [issuesBusOp_poll hp] at hb
  | rd6 => simp [issuesBusOp_rd6 hp] at hb
  | _ => simp [outstandingRequest, hp]

/-- The request signals show the fields of the outstanding word, or zeros. -/
theorem portsOut_request {word : Option (BitVec 20)} (h : outstandingRequest s = word) :
    (portsOut s).trReqValid = word.isSome ∧ (portsOut s).trReqOp = (word.getD 0).extractLsb' 19 1 ∧
      (portsOut s).trReqLen = (word.getD 0).extractLsb' 16 3 ∧
      (portsOut s).trReqData = (word.getD 0).extractLsb' 0 16 := by
  subst h
  exact ⟨rfl, rfl, rfl, rfl⟩

end

/-- Settles O51: the four cases are the four values of the outstanding request, and the signals are its fields. -/
theorem requestWordsOnPort : Obligations.RequestWordsOnPort := by
  intro s
  refine ⟨⟨rfl, rfl, rfl, rfl⟩, fun hp hc => ?_, fun hp => ?_, fun hp => ?_, fun hb => ?_⟩
  · have word := outstandingRequest_hs hp (decide_eq_true hc)
    exact ⟨word, portsOut_request word⟩
  · exact ⟨outstandingRequest_poll hp, portsOut_request (outstandingRequest_poll hp)⟩
  · exact ⟨outstandingRequest_rd6 hp, portsOut_request (outstandingRequest_rd6 hp)⟩
  · exact ⟨outstandingRequest_none hb, portsOut_request (outstandingRequest_none hb)⟩

/-! ### The answer word -/

section

variable {inp : PortsIn}

theorem portWriteAnswer_count (n : Nat) (h : inp.trRspErr = false) :
    portWriteAnswer n inp = .count ⟨min inp.trRspCount.toNat n, by omega⟩ := by
  simp [portWriteAnswer, h]

theorem portReadAnswer_err (h : inp.trRspErr = true) : portReadAnswer inp = .err := by
  simp [portReadAnswer, h]

/-- A read without an error delivers the first bytes of the data word, as many as the clamped count says
(30_encoding.md R55, R61). -/
theorem portReadAnswer_bytes (h : inp.trRspErr = false) :
    ∃ bs : RxBytes, portReadAnswer inp = .bytes bs ∧
      bs.val = (portBytes inp.trRspData).take (min inp.trRspCount.toNat 6) := by
  rw [portReadAnswer, h]
  exact ⟨_, rfl, rfl⟩

/-- Byte `i` of the data word (30_encoding.md R55). -/
theorem portBytes_getElem (w : BitVec 48) (i : Nat) (h : i < (portBytes w).length) :
    (portBytes w)[i] = w.extractLsb' (8 * i) 8 := by
  have six : i < 6 := h
  interval_cases i <;> rfl

end

/-- Settles O53: the read delivers the first of the data word's six bytes, so each stands where the word has it. -/
theorem answerWordOnPort : Obligations.AnswerWordOnPort := by
  intro inp
  refine ⟨fun herr => ?_, fun hok => ⟨fun n => ⟨_, portWriteAnswer_count n hok, rfl⟩, ?_⟩⟩
  · exact ⟨(portWriteAnswer_err_iff 2).mpr herr, (portWriteAnswer_err_iff 1).mpr herr, portReadAnswer_err herr⟩
  · obtain ⟨bs, read, hbs⟩ := portReadAnswer_bytes hok
    refine ⟨bs, read, by simp [hbs, portBytes], fun i hi => ?_⟩
    simp only [hbs, List.getElem_take, portBytes_getElem]

/-! ### The sink port -/

/-- A sink word as a number: the kind above bit 13, the channel above bit 10 (30_encoding.md R56). -/
theorem sinkWord_toNat (kind : SinkKind) (chan : BitVec 3) (value : BitVec 10) :
    (sinkWord (.sink kind chan value)).map BitVec.toNat =
      some (8192 * (sinkKindCode kind).toNat + 1024 * chan.toNat + value.toNat) := by
  simp only [sinkWord, Option.map_some, BitVec.toNat_append, Option.some.injEq]
  rw [← Nat.shiftLeft_add_eq_or_of_lt chan.isLt, ← Nat.shiftLeft_add_eq_or_of_lt value.isLt]
  simp only [Nat.shiftLeft_eq]
  omega

/-- The three fields of a sink word make up the word. -/
theorem sinkFields_append (w : BitVec 15) : w.extractLsb' 13 2 ++ w.extractLsb' 10 3 ++ w.extractLsb' 0 10 = w := by
  apply BitVec.eq_of_getLsbD_eq
  intro i hi
  simp only [BitVec.getLsbD_append, BitVec.getLsbD_extractLsb']
  interval_cases i <;> simp

/-- Every beat of a Sample has a sink word. -/
theorem sampleEvents_sinkWord (v : Sample) (beat : BitVec 3) :
    ∃ e w, (sampleEvents v)[beat.toNat]? = some e ∧ sinkWord e = some w := by
  have eight : beat.toNat < 8 := beat.isLt
  interval_cases beat.toNat <;> exact ⟨_, _, rfl, rfl⟩

section

variable {s : State}

theorem sinkShown_sending (hp : s.phase = .decrpt) (hd : dropsSample s = false) :
    sinkShown s = (sampleEvents (decodeFrame s.frame))[s.sinkBeat.toNat]? := by
  simp [sinkShown, hp, hd]

theorem sinkShown_silent (h : s.phase ≠ .decrpt ∨ dropsSample s = true) : sinkShown s = none := by
  obtain h | h := h <;> simp [sinkShown, h]

/-- While the sink port shows an event, its signals are the fields of that event's word. -/
theorem portsOut_sink {e : Event} {w : BitVec 15} (he : sinkShown s = some e) (hw : sinkWord e = some w) :
    (portsOut s).sinkValid = true ∧
      (portsOut s).sinkKind ++ (portsOut s).sinkChan ++ (portsOut s).sinkValue = w := by
  simp only [portsOut, he, hw, Option.bind_some, Option.getD_some, Option.isSome_some, sinkFields_append, and_self]

end

/-- Settles O52: the words by their value as numbers; the port by the one event it shows. -/
theorem sinkWordsOfSample : Obligations.SinkWordsOfSample := by
  refine ⟨fun v => ?_, fun s => ⟨fun hp hd => ?_, fun h => ?_⟩⟩
  · simp only [sampleEvents, List.map_cons, List.map_nil, sinkWord_toNat]
    simp [sinkKindCode, BitVec.toNat_setWidth_of_le, -BitVec.toNat_setWidth]
  · obtain ⟨e, w, he, hw⟩ := sampleEvents_sinkWord (decodeFrame s.frame) s.sinkBeat
    obtain ⟨valid, word⟩ := portsOut_sink ((sinkShown_sending hp hd).trans he) hw
    refine ⟨valid, ?_⟩
    rw [word, he, Option.bind_some, hw]
  · simp [portsOut, sinkShown_silent h]

/-! ### The block without its scenario -/

/-- What the two levels have in common: no element of the clocked rendering, and no scenario, whose place the port takes. -/
def portless (s : State) : State := { transactionPart s with script := [] }

section

variable (s : State)

@[simp] theorem portless_trace : (portless s).trace = s.trace := rfl

theorem portless_of_script {s : State} (h : s.script = []) : portless s = transactionPart s := by
  rw [portless, ← h]
  rfl

theorem busOpEnds_portless (failed : Bool) (next : Phase) :
    busOpEnds failed next (portless s) = portless (busOpEnds failed next s) := by
  cases failed with
  | false => rfl
  | true =>
    simp only [busOpEnds, if_true]
    cases hf : s.cfg.terrFatal with
    | false => rw [afterError_logged s next hf, afterError_logged (portless s) next hf]; rfl
    | true => rw [afterError_fatal s next hf, afterError_fatal (portless s) next hf]; rfl

theorem handshakeAnswered_portless (a : WriteAnswer 2) :
    handshakeAnswered a (portless s) = portless (handshakeAnswered a s) := by
  rw [handshakeAnswered_eq, handshakeAnswered_eq, ← busOpEnds_portless]
  rfl

theorem pollAnswered_portless (a : WriteAnswer 1) : pollAnswered a (portless s) = portless (pollAnswered a s) := by
  rw [pollAnswered_eq, pollAnswered_eq, ← busOpEnds_portless]
  rfl

theorem readAnswered_portless (a : ReadAnswer) : readAnswered a (portless s) = portless (readAnswered a s) := by
  rw [readAnswered_eq, readAnswered_eq, ← busOpEnds_portless]
  rfl

theorem cancellationChecked_portless : cancellationChecked (portless s) = portless (cancellationChecked s) := by
  obtain ⟨hs, e⟩ | ⟨hs, e⟩ := cancellationChecked_cases s
  · rw [e, cancellationChecked_pending (portless s) hs]; rfl
  · rw [e, cancellationChecked_clear (portless s) hs]; rfl

theorem loadTimer_portless (f : ClockFreq) : portless (loadTimer f s) = portless s := by
  rw [portless, transactionPart_loadTimer]
  rfl

end

/-! ### What the sequencer does at an edge -/

/-- The sequencer has no step at this edge: it is idle, its request is not answered, its delay is not over, or its Sample is
not all sent. -/
def sequencerWaits (inp : PortsIn) (s : State) : Prop :=
  s.phase = .idle ∨ (issuesBusOp s = true ∧ inp.trRspValid = false) ∨
    ((phaseDelay s.phase).isSome = true ∧ 1 < s.timer) ∨
    (s.phase = .decrpt ∧ dropsSample s = false ∧ s.sinkBeat ≠ 7)

/-- What the port gives the operation of this edge: nothing where it issues no request, else the answer the port shows. -/
def portAnswers (inp : PortsIn) (s : State) (ans : List Item) : Prop :=
  issuesBusOp s = false ∧ ans = [] ∨ inp.trRspValid = true ∧
    (ans = [.w2 (portWriteAnswer 2 inp)] ∨ ans = [.w1 (portWriteAnswer 1 inp)] ∨ ans = [.r6 (portReadAnswer inp)])

/-- Everything the sequencer can do at an edge, in the terms of the transaction level. -/
inductive EdgeCase (inp : PortsIn) (s u : State) : Prop where
  | waits (h : sequencerWaits inp s) (hu : portless u = portless s)
  | performs (ans : List Item) (h : portAnswers inp s ans)
      (hu : exec s.phase.instr { portless s with script := ans } = .next (portless u))

section

variable {inp : PortsIn} {s u : State}

/-- An operation without a request is performed as it is at the transaction level. -/
theorem EdgeCase.silent (hb : issuesBusOp s = false) (hu : exec s.phase.instr (portless s) = .next (portless u)) :
    EdgeCase inp s u :=
  .performs [] (.inl ⟨hb, rfl⟩) hu

theorem EdgeCase.unanswered (hb : issuesBusOp s = true) (hv : inp.trRspValid = false) : EdgeCase inp s s :=
  .waits (.inr (.inl ⟨hb, hv⟩)) rfl

/-- An answered request is the phase operation on that answer. -/
theorem EdgeCase.handshake (hp : s.phase = .hs) (hd : handshakeDue s = true) (hv : inp.trRspValid = true) :
    EdgeCase inp s (handshakeAnswered (portWriteAnswer 2 inp) s) := by
  refine .performs [.w2 (portWriteAnswer 2 inp)] (.inr ⟨hv, .inl rfl⟩) ?_
  rw [hp, ← handshakeAnswered_portless]
  exact exec_hs_answered { portless s with script := [.w2 (portWriteAnswer 2 inp)] } _ [] hd rfl

theorem EdgeCase.poll (hp : s.phase = .poll) (hv : inp.trRspValid = true) :
    EdgeCase inp s (pollAnswered (portWriteAnswer 1 inp) s) := by
  refine .performs [.w1 (portWriteAnswer 1 inp)] (.inr ⟨hv, .inr (.inl rfl)⟩) ?_
  rw [hp, ← pollAnswered_portless]
  exact exec_poll_answered { portless s with script := [.w1 (portWriteAnswer 1 inp)] } _ [] rfl

theorem EdgeCase.read (hp : s.phase = .rd6) (hv : inp.trRspValid = true) :
    EdgeCase inp s (readAnswered (portReadAnswer inp) s) := by
  refine .performs [.r6 (portReadAnswer inp)] (.inr ⟨hv, .inr (.inr rfl)⟩) ?_
  rw [hp, ← readAnswered_portless]
  exact exec_rd6_answered { portless s with script := [.r6 (portReadAnswer inp)] } _ [] rfl

/-- One clock of a delay phase: TIMER runs on, or the delay's one step is performed. -/
theorem EdgeCase.delay {d : DelayName} {next : Phase} (hd : phaseDelay s.phase = some (d, next))
    (hb : issuesBusOp s = false) (he : ∀ t, exec s.phase.instr t = .next (delayElapsed d next t)) :
    EdgeCase inp s (delayClock d next s) := by
  obtain ⟨-, e⟩ | ⟨ht, e⟩ := delayClock_cases s d next <;> rw [e]
  · exact .silent hb (he _)
  · exact .waits (.inr (.inr (.inl ⟨by rw [hd]; rfl, ht⟩))) rfl

/-- One clock of DECRPT: a beat but the last, or the one step that records the whole Sample or none. -/
theorem EdgeCase.report (hp : s.phase = .decrpt) : EdgeCase inp s (reportClock s) := by
  have hb : issuesBusOp s = false := by simp [issuesBusOp, hp]
  obtain ⟨hd, e⟩ | ⟨hd, -, e⟩ | ⟨hd, hbeat, e⟩ := reportClock_cases s <;> rw [e]
  · refine .silent hb ?_
    rw [hp, Phase.instr, exec_decrpt, reportEvents_dropped (portless s) hd]
    simp [record, goto, portless, transactionPart]
  · refine .silent hb ?_
    rw [hp, Phase.instr, exec_decrpt, reportEvents_sent (portless s) hd]
    rfl
  · exact .waits (.inr (.inr (.inr ⟨hp, hd, hbeat⟩))) rfl

/-- Loading TIMER does not show at the transaction level. -/
theorem EdgeCase.loadTimer (f : ClockFreq) (h : EdgeCase inp s u) : EdgeCase inp s (loadTimer f u) := by
  cases h with
  | waits h hu => exact .waits h ((loadTimer_portless u f).trans hu)
  | performs ans h hu => exact .performs ans h (by rw [hu, loadTimer_portless])

end

/-- The inversion of the sequencer's move at an edge. -/
theorem sequencerClock_cases (f : ClockFreq) (inp : PortsIn) (s : State) : EdgeCase inp s (sequencerClock f inp s) := by
  cases hp : s.phase <;> simp only [sequencerClock, hp]
  case idle => exact .waits (.inl hp) rfl
  case hs =>
    split
    · next hd =>
      split
      · next hv => exact .handshake hp hd hv
      · next hv => exact .unanswered ((issuesBusOp_hs hp).trans hd) (by simpa using hv)
    · next hd =>
      have notDue : handshakeDue s = false := by simpa using hd
      exact .silent ((issuesBusOp_hs hp).trans notDue) (by rw [hp]; exact exec_hs_skips (portless s) notDue)
  case poll =>
    split
    · next hv => exact (EdgeCase.poll hp hv).loadTimer f
    · next hv => exact .unanswered (issuesBusOp_poll hp) (by simpa using hv)
  case rd6 =>
    split
    · next hv => exact .read hp hv
    · next hv => exact .unanswered (issuesBusOp_rd6 hp) (by simpa using hv)
  case inc => exact .loadTimer f (.silent (by simp [issuesBusOp, hp]) (by rw [hp]; rfl))
  case dlyCmd => exact .delay (by rw [hp]; rfl) (by simp [issuesBusOp, hp]) (by rw [hp]; exact fun _ => rfl)
  case dlyData => exact .delay (by rw [hp]; rfl) (by simp [issuesBusOp, hp]) (by rw [hp]; exact fun _ => rfl)
  case dlyRest => exact .delay (by rw [hp]; rfl) (by simp [issuesBusOp, hp]) (by rw [hp]; exact fun _ => rfl)
  case decrpt =>
    split
    · exact (EdgeCase.report hp).loadTimer f
    · exact .report hp
  case chk =>
    refine .silent (by simp [issuesBusOp, hp]) ?_
    rw [hp, Phase.instr, exec_chk, cancellationChecked_portless]

/-! The clocked rendering takes its answers from the port and leaves the scenario alone. -/

section

variable (s : State)

theorem handshakeAnswered_script (a : WriteAnswer 2) : (handshakeAnswered a s).script = s.script := by
  rw [handshakeAnswered_eq, busOpEnds_script]; rfl

theorem pollAnswered_script (a : WriteAnswer 1) : (pollAnswered a s).script = s.script := by
  rw [pollAnswered_eq, busOpEnds_script]; rfl

theorem readAnswered_script (a : ReadAnswer) : (readAnswered a s).script = s.script := by
  rw [readAnswered_eq, busOpEnds_script]; rfl

theorem cancellationChecked_script : (cancellationChecked s).script = s.script := by
  obtain ⟨-, e⟩ | ⟨-, e⟩ := cancellationChecked_cases s <;> simp [e]

theorem delayClock_script (d : DelayName) (next : Phase) : (delayClock d next s).script = s.script := by
  obtain ⟨-, e⟩ | ⟨-, e⟩ := delayClock_cases s d next <;> simp [e]

theorem reportClock_script : (reportClock s).script = s.script := by
  obtain ⟨-, e⟩ | ⟨-, -, e⟩ | ⟨-, -, e⟩ := reportClock_cases s <;> simp [e]

theorem loadTimer_script (f : ClockFreq) : (loadTimer f s).script = s.script := by
  simpa using congrArg State.script (transactionPart_loadTimer f s)

theorem sequencerClock_script (f : ClockFreq) (inp : PortsIn) : (sequencerClock f inp s).script = s.script := by
  unfold sequencerClock
  repeat' split
  all_goals simp only [handshakeAnswered_script, pollAnswered_script, readAnswered_script, cancellationChecked_script,
    delayClock_script, reportClock_script, loadTimer_script, goto_script]

end

/-- Settles O60: the edge's move, with the pulses it queues left out and the scenario empty on both sides. -/
theorem clockEdgeRefinesOperation : Obligations.ClockEdgeRefinesOperation := by
  intro f inp s hq hs
  have moved : transactionPart (clockEdge f inp s) = portless (sequencerClock f inp s) := by
    rw [clockEdge_quiet f inp s hq, portless_of_script ((sequencerClock_script s f inp).trans hs)]
    rfl
  rw [moved, ← portless_of_script hs]
  cases sequencerClock_cases f inp s with
  | waits h hu => exact .inl ⟨h, hu⟩
  | performs ans h hu => exact .inr ⟨ans, h, hu⟩

/-! ### The pulses of conditions -/

/-- The sequencer's move at an edge only appends to the trace. -/
theorem sequencerClock_trace (f : ClockFreq) (inp : PortsIn) (s : State) :
    ∃ es, (sequencerClock f inp s).trace = s.trace ++ es := by
  cases sequencerClock_cases f inp s with
  | waits h hu => exact ⟨[], by simpa using congrArg State.trace hu⟩
  | performs ans h hu => exact (phase_cases { portless s with script := ans } hu).ends.trace

theorem commandsClock_condPulses (inp : PortsIn) (s : State) : (commandsClock inp s).condPulses = s.condPulses := by
  have start : ∀ t, (startCommand t).condPulses = t.condPulses := by
    intro t
    obtain ⟨-, e⟩ | ⟨-, e⟩ := startCommand_cases t <;> rw [e] <;> rfl
  have stop : ∀ t, (stopCommand t).condPulses = t.condPulses := by
    intro t
    obtain ⟨-, e⟩ | ⟨-, e⟩ := stopCommand_cases t <;> rw [e] <;> rfl
  unfold commandsClock
  split_ifs <;> simp only [start, stop]

/-- A clock's commands raise no condition. -/
theorem commandsClock_trace_quiet (inp : PortsIn) (s : State) :
    ∃ cs, (commandsClock inp s).trace = s.trace ++ cs ∧ raisedConds cs = [] := by
  refine ⟨_, commandsClock_trace inp s, ?_⟩
  cases inp.cmdStop <;> cases inp.cmdStart <;> rfl

/-- An edge without reset is the commands, a move that only appends to the trace, and the pulses. -/
theorem clockEdge_moves (f : ClockFreq) (inp : PortsIn) (s : State) (h : inp.rst = false) :
    ∃ (u : State) (es : List Event), u.trace = (commandsClock inp s).trace ++ es ∧
      clockEdge f inp s = { u with condPulses := pulsesAfter (commandsClock inp s) u } := by
  by_cases hp : s.phase = .idle
  · exact ⟨commandsClock inp s, [], by simp, by simp [clockEdge, h, hp]⟩
  · obtain ⟨es, hes⟩ := sequencerClock_trace f inp (commandsClock inp s)
    exact ⟨_, es, hes, clockEdge_busy f inp s h hp⟩

/-- An edge without reset: what it records, and the pulses it queues. -/
theorem clockEdge_pulses (f : ClockFreq) (inp : PortsIn) (s : State) (h : inp.rst = false) :
    ∃ es, (clockEdge f inp s).trace = s.trace ++ es ∧
      (clockEdge f inp s).condPulses = s.condPulses.tail ++ raisedConds es := by
  obtain ⟨cs, hcs, quiet⟩ := commandsClock_trace_quiet inp s
  obtain ⟨u, es, hu, edge⟩ := clockEdge_moves f inp s h
  refine ⟨cs ++ es, ?_, ?_⟩
  · rw [edge, ← List.append_assoc, ← hcs]
    exact hu
  · rw [edge, raisedConds_append, quiet, List.nil_append, ← commandsClock_condPulses inp s]
    exact pulsesAfter_of_trace es hu

/-- Settles O55: the pulses queued are the conditions among the events recorded, and the port shows the head of the queue. -/
theorem condPulsePerEvent : Obligations.CondPulsePerEvent := by
  intro f inp s
  refine ⟨clockEdge_pulses f inp s, fun c cs h => ?_, fun h => ?_⟩ <;> simp [portsOut, h]

end Sys2Proof.Machine

/-! PROOFS. The Frame Decoder (40_frame_decoder.md): `DEOBF` on one byte, bit by bit and as a number, and its inverse; the fields
of a de-obfuscated frame, cut out of its bytes; the two together, whose inverse is packing the fields and `OBF` on each byte. -/

namespace Sys2Proof.Machine

open Sys2Proof

/-! ### DEOBF -/

/-- `DEOBF` as a number (R70). -/
theorem deobf_toNat (b : Byte) : (deobf b).toNat = ((b.toNat ^^^ 0x17) + 0x17) % 256 := by
  simp [deobf, xorKey, addKey]

/-- The exclusive or and the addition use one key, so that what is left of a bit is the carry into it. -/
theorem deobf_getLsbD (b : Byte) {i : Nat} (hi : i < 8) :
    (deobf b).getLsbD i = (b.getLsbD i ^^ BitVec.carry i (b ^^^ xorKey) xorKey false) := by
  have oneKey : addKey = xorKey := rfl
  rw [deobf, BitVec.getLsbD_add hi, BitVec.getLsbD_xor, oneKey, Bool.xor_assoc, ← Bool.xor_assoc (xorKey.getLsbD i),
    Bool.xor_self, Bool.false_xor]

/-- An addition carries nowhere exactly when the operands share no bit below the topmost. -/
theorem carry_eq_false_iff {w : Nat} (x y : BitVec (w + 1)) :
    (∀ i < w + 1, BitVec.carry i x y false = false) ↔ ∀ i < w, (x.getLsbD i && y.getLsbD i) = false := by
  constructor
  · intro noCarry i hi
    have next := noCarry (i + 1) (by omega)
    rwa [BitVec.carry_succ, noCarry i (by omega), Bool.atLeastTwo_false_right] at next
  · intro disjoint i
    induction i with
    | zero => simp
    | succ i ih =>
      intro hi
      rw [BitVec.carry_succ, ih (by omega), Bool.atLeastTwo_false_right, disjoint i (by omega)]

/-- The fixed points of `DEOBF` are the bytes with every bit of the key: there the exclusive or leaves the addition no carry. -/
theorem deobf_eq_self_iff (b : Byte) : deobf b = b ↔ b &&& 0x17 = 0x17 := by
  calc deobf b = b
      ↔ ∀ i < 8, (deobf b).getLsbD i = b.getLsbD i := BitVec.eq_of_getLsbD_eq_iff
    _ ↔ ∀ i < 8, BitVec.carry i (b ^^^ xorKey) xorKey false = false :=
        forall₂_congr fun i hi => by rw [deobf_getLsbD b hi]; cases b.getLsbD i <;> simp
    _ ↔ ∀ i < 7, ((b ^^^ xorKey).getLsbD i && xorKey.getLsbD i) = false := carry_eq_false_iff _ _
    _ ↔ ∀ i < 7, (b &&& xorKey).getLsbD i = xorKey.getLsbD i :=
        forall₂_congr fun i _ => by rw [BitVec.getLsbD_xor, BitVec.getLsbD_and]; cases b.getLsbD i <;> simp
    _ ↔ ∀ i < 8, (b &&& xorKey).getLsbD i = xorKey.getLsbD i := by
        have topmost : (b &&& xorKey).getLsbD 7 = xorKey.getLsbD 7 := by simp [xorKey]
        simp only [Nat.forall_lt_succ_right (n := 7), topmost, and_true]
    _ ↔ b &&& 0x17 = 0x17 := BitVec.eq_of_getLsbD_eq_iff.symm

/-- No carry enters bit 0 (R78). -/
theorem deobf_getLsbD_zero (b : Byte) : (deobf b).getLsbD 0 = b.getLsbD 0 := by
  rw [deobf_getLsbD b (by decide), BitVec.carry_zero, Bool.xor_false]

theorem obf_deobf (b : Byte) : obf (deobf b) = b := by
  rw [obf, deobf, BitVec.add_sub_cancel, BitVec.xor_assoc, BitVec.xor_self, BitVec.xor_zero]

theorem deobf_obf (d : Byte) : deobf (obf d) = d := by
  rw [obf, deobf, BitVec.xor_assoc, BitVec.xor_self, BitVec.xor_zero, BitVec.sub_add_cancel]

/-- Settles O12: both inverses cancel the addition against the subtraction and the key against itself. -/
theorem deobfInverse : Obligations.DeobfInverse :=
  fun b => ⟨obf_deobf b, deobf_obf b, deobf_getLsbD_zero b⟩

/-- Settles O6, with the result `deobf b`. -/
theorem deobfResult : Obligations.DeobfResult :=
  fun _ b => ⟨deobf b, rfl, deobf_toNat b, deobf_eq_self_iff b⟩

/-! ### DEOBF6 -/

theorem frameByte_deobf6 (f : Frame) (k : Fin 6) : frameByte (deobf6 f) k = deobf (frameByte f k) := by
  fin_cases k <;> rfl

/-- Settles O7: each byte of `deobf6 f` is `deobf` of its own byte. -/
theorem deobf6Result : Obligations.Deobf6Result := by
  refine fun s f => ⟨deobf6 f, rfl, fun k => ?_⟩
  rw [frameByte_deobf6, deobf_toNat]

/-! ### The fields of a de-obfuscated frame -/

/-- Settles O8: `stickX` and `stickY` read bytes 0 and 1 as they stand. -/
theorem stickResults : Obligations.StickResults := fun _ _ => ⟨rfl, rfl⟩

/-- An acceleration is its high byte followed by two bits of byte 5 (30_encoding.md R57). -/
theorem assembleAccel_eq_append (high low : Byte) (shift : Nat) :
    assembleAccel high low shift = high ++ low.extractLsb' shift 2 := by
  have twoBits : (low >>> shift &&& 0x03).setWidth 10 = (low.extractLsb' shift 2).setWidth 10 := by
    apply BitVec.eq_of_toNat_eq
    simp only [BitVec.toNat_setWidth, BitVec.toNat_and, BitVec.toNat_ushiftRight, BitVec.extractLsb'_toNat]
    rw [show (0x03 : Byte).toNat = 2 ^ 2 - 1 from rfl, Nat.and_two_pow_sub_one_eq_mod]
  rw [assembleAccel, twoBits, BitVec.append_def, BitVec.shiftLeftZeroExtend_eq, BitVec.setWidth'_eq]

theorem assembleAccel_toNat (high low : Byte) (shift : Nat) :
    (assembleAccel high low shift).toNat = high.toNat * 4 + low.toNat / 2 ^ shift % 4 := by
  have twoBits : low.toNat >>> shift % 2 ^ 2 < 2 ^ 2 := Nat.mod_lt _ (by decide)
  rw [assembleAccel_eq_append, BitVec.toNat_append, BitVec.extractLsb'_toNat, ← Nat.shiftLeft_add_eq_or_of_lt twoBits,
    Nat.shiftLeft_eq, Nat.shiftRight_eq_div_pow]
  rfl

theorem buttonC_eq (d : DFrame) : buttonC d = d.b5.extractLsb' 1 1 := by
  apply BitVec.eq_of_getLsbD_eq
  simp [buttonC]

theorem buttonZ_eq (d : DFrame) : buttonZ d = d.b5.extractLsb' 0 1 := by
  apply BitVec.eq_of_getLsbD_eq
  simp [buttonZ]

theorem buttonC_toNat (d : DFrame) : (buttonC d).toNat = d.b5.toNat / 2 % 2 := by
  rw [buttonC_eq, BitVec.extractLsb'_toNat, Nat.shiftRight_eq_div_pow]

theorem buttonZ_toNat (d : DFrame) : (buttonZ d).toNat = d.b5.toNat % 2 := by
  rw [buttonZ_eq, BitVec.extractLsb'_toNat, Nat.shiftRight_zero]

/-- Settles O9: one assembly at the shifts 2, 4 and 6. -/
theorem accelResults : Obligations.AccelResults :=
  fun _ d => ⟨accelX d, accelY d, accelZ d, rfl, rfl, rfl, assembleAccel_toNat _ _ 2, assembleAccel_toNat _ _ 4,
    assembleAccel_toNat _ _ 6⟩

/-- Settles O10, with the results `buttonC d` and `buttonZ d`. -/
theorem buttonResults : Obligations.ButtonResults :=
  fun _ d => ⟨buttonC d, buttonZ d, rfl, rfl, buttonC_toNat d, buttonZ_toNat d⟩

/-! ### DECODE and its inverse -/

/-- Settles O11: the numbers of a frame's fields, at the frame `deobf6 f`. -/
theorem decodeResult : Obligations.DecodeResult := by
  refine fun s f => ⟨decodeFrame f, rfl, ?_⟩
  simp only [← deobf_toNat, ← frameByte_deobf6]
  exact ⟨rfl, rfl, assembleAccel_toNat _ _ 2, assembleAccel_toNat _ _ 4, assembleAccel_toNat _ _ 6, buttonC_toNat _,
    buttonZ_toNat _⟩

/-- `OBF` on each byte. -/
def obf6 (d : DFrame) : Frame where
  b0 := obf d.b0
  b1 := obf d.b1
  b2 := obf d.b2
  b3 := obf d.b3
  b4 := obf d.b4
  b5 := obf d.b5

theorem obf6_deobf6 (f : Frame) : obf6 (deobf6 f) = f := by
  simp only [obf6, deobf6, obf_deobf]

theorem deobf6_obf6 (d : DFrame) : deobf6 (obf6 d) = d := by
  simp only [obf6, deobf6, deobf_obf]

/-- Byte 5 from its fields: the low bits of the three accelerations, those of `Z` topmost, and the two buttons
(30_encoding.md R57). -/
def packByte5 (z y x : BitVec 2) (c b : BitVec 1) : Byte := z ++ y ++ x ++ c ++ b

theorem packByte5_fields (z y x : BitVec 2) (c b : BitVec 1) :
    (packByte5 z y x c b).extractLsb' 6 2 = z ∧ (packByte5 z y x c b).extractLsb' 4 2 = y ∧
      (packByte5 z y x c b).extractLsb' 2 2 = x ∧ (packByte5 z y x c b).extractLsb' 1 1 = c ∧
      (packByte5 z y x c b).extractLsb' 0 1 = b := by
  simp only [BitVec.eq_of_getLsbD_eq_iff, BitVec.getLsbD_extractLsb', packByte5, BitVec.getLsbD_append]
  refine ⟨?_, ?_, ?_, ?_, ?_⟩ <;> intro i hi <;> interval_cases i <;> simp

theorem packByte5_of_fields (b : Byte) :
    packByte5 (b.extractLsb' 6 2) (b.extractLsb' 4 2) (b.extractLsb' 2 2) (b.extractLsb' 1 1)
      (b.extractLsb' 0 1) = b := by
  apply BitVec.eq_of_getLsbD_eq
  intro i hi
  simp only [packByte5, BitVec.getLsbD_append, BitVec.getLsbD_extractLsb']
  interval_cases i <;> simp

/-- The de-obfuscated frame of a Sample: an acceleration's upper eight bits make a byte of their own. -/
def packSample (v : Sample) : DFrame where
  b0 := v.stickX
  b1 := v.stickY
  b2 := v.accelX.extractLsb' 2 8
  b3 := v.accelY.extractLsb' 2 8
  b4 := v.accelZ.extractLsb' 2 8
  b5 := packByte5 (v.accelZ.extractLsb' 0 2) (v.accelY.extractLsb' 0 2) (v.accelX.extractLsb' 0 2) v.buttonC v.buttonZ

/-- The seven fields, written out as parts of the six bytes. -/
theorem unpackSample_eq (d : DFrame) : unpackSample d =
    { stickX := d.b0, stickY := d.b1, accelX := d.b2 ++ d.b5.extractLsb' 2 2, accelY := d.b3 ++ d.b5.extractLsb' 4 2,
      accelZ := d.b4 ++ d.b5.extractLsb' 6 2, buttonC := d.b5.extractLsb' 1 1, buttonZ := d.b5.extractLsb' 0 1 } := by
  simp only [unpackSample, stickX, stickY, accelX, accelY, accelZ, shiftX, shiftY, shiftZ, assembleAccel_eq_append,
    buttonC_eq, buttonZ_eq]

theorem packSample_unpackSample (d : DFrame) : packSample (unpackSample d) = d := by
  have high (a : Byte) (l : BitVec 2) : (a ++ l).extractLsb' 2 8 = a := BitVec.extractLsb'_append_eq_left
  have low (a : Byte) (l : BitVec 2) : (a ++ l).extractLsb' 0 2 = l := BitVec.extractLsb'_append_eq_right
  simp only [unpackSample_eq, packSample, high, low, packByte5_of_fields]

theorem unpackSample_packSample (v : Sample) : unpackSample (packSample v) = v := by
  have split (a : BitVec 10) : a.extractLsb' 2 8 ++ a.extractLsb' 0 2 = a :=
    (BitVec.extractLsb'_append_extractLsb'_eq_extractLsb' (start₁ := 0) rfl).trans BitVec.extractLsb'_eq_self
  obtain ⟨z, y, x, c, b⟩ := packByte5_fields (v.accelZ.extractLsb' 0 2) (v.accelY.extractLsb' 0 2)
    (v.accelX.extractLsb' 0 2) v.buttonC v.buttonZ
  simp only [unpackSample_eq, packSample, z, y, x, c, b, split]

/-- Settles O13: the inverse packs the fields and obfuscates each byte. -/
theorem decodeBijective : Obligations.DecodeBijective := by
  refine Function.bijective_iff_has_inverse.2 ⟨fun v => obf6 (packSample v), fun f => ?_, fun v => ?_⟩
  · simp only [decodeFrame, packSample_unpackSample, obf6_deobf6]
  · simp only [decodeFrame, deobf6_obf6, unpackSample_packSample]

end Sys2Proof.Machine

/-! PROOFS. The sequencer (41_sequencer.md): what each phase operation does, the table of control transfers, and what follows over
whole cycles. One equation for each bus operation that goes on, and one for each that ends the session, carry the statements about
the single phases; the same equations, as steps, make up a cycle, and cycles make up the cadence. -/

namespace Sys2Proof.Machine

open Sys2Proof

/-! ### The bus operations on their answers -/

section

variable {s : State} {rest : List Item}

theorem handshakeDue_iff : handshakeDue s = true ↔ s.cycleCounter % 10 = 0 := decide_eq_true_iff

theorem handshakeDue_eq_false_iff : handshakeDue s = false ↔ s.cycleCounter % 10 ≠ 0 := decide_eq_false_iff_not

/-- A bus operation goes on unless its answer failed and errors are fatal (60_exceptions.md R131, R144). -/
theorem busOpEnds_goesOn {failed : Bool} {next : Phase} (h : failed = true → s.cfg.terrFatal = false) :
    busOpEnds failed next s = goto next s := by
  obtain e | ⟨hfailed, hfatal, -⟩ := busOpEnds_cases s failed next
  · exact e
  · simp [h hfailed] at hfatal

theorem busOpEnds_aborts {next : Phase} (h : s.cfg.terrFatal = true) : busOpEnds true next s = abortSession s :=
  afterError_fatal s next h

theorem exec_hs_ends {a : WriteAnswer 2} (due : s.cycleCounter % 10 = 0) (hs : s.script = .w2 a :: rest) :
    exec .hs s = .next (busOpEnds (decide (a = .err)) .inc
      (noted (.busWrite [0x40, 0x00] (writeResult a) :: handshakeConds a) { s with script := rest })) := by
  rw [exec_hs_answered s a rest (handshakeDue_iff.2 due) hs, popItem_of_script hs, handshakeAnswered_eq]

theorem exec_poll_ends {a : WriteAnswer 1} (hs : s.script = .w1 a :: rest) :
    exec .poll s = .next (busOpEnds (decide (a = .err)) .dlyData
      (noted (.busWrite [0x00] (writeResult a) :: pollConds a) { s with script := rest })) := by
  rw [exec_poll_answered s a rest hs, popItem_of_script hs, pollAnswered_eq]

theorem exec_rd6_ends {a : ReadAnswer} (hs : s.script = .r6 a :: rest) :
    exec .rd6 s = .next (busOpEnds (decide (a = .err)) .decrpt
      (noted (.busRead 6 (readResult a) :: readConds a) (received a { s with script := rest }))) := by
  rw [exec_rd6_answered s a rest hs, popItem_of_script hs, readAnswered_eq]

/-! The three bus operations that go on. -/

theorem exec_hs_goesOn {a : WriteAnswer 2} (due : s.cycleCounter % 10 = 0) (hs : s.script = .w2 a :: rest)
    (ok : a = .err → s.cfg.terrFatal = false) :
    exec .hs s = .next { s with
      phase := .inc, script := rest, status := s.status ||| raisedMask (handshakeConds a),
      trace := s.trace ++ .busWrite [0x40, 0x00] (writeResult a) :: handshakeConds a } := by
  rw [exec_hs_ends due hs, busOpEnds_goesOn]
  · rfl
  · exact fun failed => ok (of_decide_eq_true failed)

theorem exec_poll_goesOn {a : WriteAnswer 1} (hs : s.script = .w1 a :: rest) (ok : a = .err → s.cfg.terrFatal = false) :
    exec .poll s = .next { s with
      phase := .dlyData, script := rest, status := s.status ||| raisedMask (pollConds a),
      trace := s.trace ++ .busWrite [0x00] (writeResult a) :: pollConds a } := by
  rw [exec_poll_ends hs, busOpEnds_goesOn]
  · rfl
  · exact fun failed => ok (of_decide_eq_true failed)

theorem exec_rd6_goesOn {a : ReadAnswer} (hs : s.script = .r6 a :: rest) (ok : a = .err → s.cfg.terrFatal = false) :
    exec .rd6 s = .next { s with
      phase := .decrpt, script := rest, frame := frameAfterRead s.frame a, rxCount := rxCountAfterRead a,
      rxErr := decide (a = .err), status := s.status ||| raisedMask (readConds a),
      trace := s.trace ++ .busRead 6 (readResult a) :: readConds a } := by
  rw [exec_rd6_ends hs, busOpEnds_goesOn]
  · rfl
  · exact fun failed => ok (of_decide_eq_true failed)

/-! The three bus operations that a fatal error ends (41_sequencer.md R103). -/

theorem exec_hs_aborts (due : s.cycleCounter % 10 = 0) (hs : s.script = .w2 .err :: rest) (fatal : s.cfg.terrFatal = true) :
    exec .hs s = .next { s with
      run := false, stopReq := false, phase := .idle, script := rest, status := s.status ||| 0b0001,
      trace := s.trace ++ [.busWrite [0x40, 0x00] .err, .cond .transportError, .stopped] } := by
  rw [exec_hs_ends due hs, decide_eq_true rfl, busOpEnds_aborts (by exact fatal)]
  simp [abortSession, noted, handshakeConds, writeResult, raisedMask, statusMask]

theorem exec_poll_aborts (hs : s.script = .w1 .err :: rest) (fatal : s.cfg.terrFatal = true) :
    exec .poll s = .next { s with
      run := false, stopReq := false, phase := .idle, script := rest, status := s.status ||| 0b0101,
      trace := s.trace ++ [.busWrite [0x00] .err, .cond .transportError, .cond .pollRequestFailed, .stopped] } := by
  rw [exec_poll_ends hs, decide_eq_true rfl, busOpEnds_aborts (by exact fatal)]
  simp [abortSession, noted, pollConds, writeResult, raisedMask, statusMask]

theorem exec_rd6_aborts (hs : s.script = .r6 .err :: rest) (fatal : s.cfg.terrFatal = true) :
    exec .rd6 s = .next { s with
      run := false, stopReq := false, phase := .idle, script := rest, rxErr := true, rxCount := 0,
      status := s.status ||| 0b0001, trace := s.trace ++ [.busRead 6 .err, .cond .transportError, .stopped] } := by
  rw [exec_rd6_ends hs, decide_eq_true rfl, busOpEnds_aborts (by exact fatal)]
  simp [abortSession, noted, received, frameAfterRead, rxCountAfterRead, readConds, readResult, raisedMask, statusMask]

end

/-- Settles O16: the skipped write, and the answered one by its count or its error. -/
theorem handshakePhaseResult : Obligations.HandshakePhaseResult := by
  intro s rest
  refine ⟨fun notDue => exec_hs_skips s (handshakeDue_eq_false_iff.2 notDue), fun due =>
    ⟨fun k hs => ⟨fun full => ?_, fun short => ?_⟩, fun hs => ⟨fun logged => ?_, exec_hs_aborts due hs⟩⟩⟩
  · simp [exec_hs_goesOn due hs nofun, handshakeConds, writeResult, raisedMask, full]
  · simp [exec_hs_goesOn due hs nofun, handshakeConds, writeResult, raisedMask, statusMask, short]
  · simp [exec_hs_goesOn due hs fun _ => logged, handshakeConds, writeResult, raisedMask, statusMask]

/-- Settles O19: the answered write by its count or its error. -/
theorem pollPhaseResult : Obligations.PollPhaseResult := by
  intro s rest
  refine ⟨fun k hs => ⟨fun full => ?_, fun short => ?_⟩, fun hs => ⟨fun logged => ?_, exec_poll_aborts hs⟩⟩
  · simp [exec_poll_goesOn hs nofun, pollConds, writeResult, raisedMask, full]
  · simp [exec_poll_goesOn hs nofun, pollConds, writeResult, raisedMask, statusMask, short]
  · simp [exec_poll_goesOn hs fun _ => logged, pollConds, writeResult, raisedMask, statusMask]

/-- Settles O20: the answered read by how many bytes came or its error; FRAME is the one `loadFrame` makes. -/
theorem readPhaseResult : Obligations.ReadPhaseResult := by
  intro s rest
  refine ⟨fun bs hs => ⟨loadFrame s.frame bs.val, frameByte_loadFrame s.frame bs.val, fun full => ?_, fun short => ?_⟩,
    fun hs => ⟨fun logged => ?_, exec_rd6_aborts hs⟩⟩
  · simp [exec_rd6_goesOn hs nofun, frameAfterRead, rxCountAfterRead, readConds, readResult, raisedMask, full]
  · simp [exec_rd6_goesOn hs nofun, frameAfterRead, rxCountAfterRead, readConds, readResult, raisedMask, statusMask, short]
  · simp [exec_rd6_goesOn hs fun _ => logged, frameAfterRead, rxCountAfterRead, readConds, readResult, raisedMask, statusMask]

/-- Settles O15: the fatal ends are those of the three bus operations; an `Err` that is not fatal goes on and touches neither RUN
nor STOP_REQ. -/
theorem fatalErrorAborts : Obligations.FatalErrorAborts := by
  intro s rest
  refine ⟨fun fatal => ⟨fun due hs => exec_hs_aborts due hs fatal, fun hs => exec_poll_aborts hs fatal,
    fun hs => exec_rd6_aborts hs fatal⟩, fun logged t => ⟨fun due hs h => ?_, fun hs h => ?_, fun hs h => ?_⟩⟩
  · cases (exec_hs_goesOn due hs fun _ => logged).symm.trans h
    exact ⟨rfl, rfl, rfl⟩
  · cases (exec_poll_goesOn hs fun _ => logged).symm.trans h
    exact ⟨rfl, rfl, rfl⟩
  · cases (exec_rd6_goesOn hs fun _ => logged).symm.trans h
    exact ⟨rfl, rfl, rfl⟩

/-! ### The phases without a request -/

/-- Settles O17: INC is the counter's successor and the transfer to DLY_CMD. -/
theorem incrementPhaseResult : Obligations.IncrementPhaseResult := exec_inc

/-- Settles O18: each delay phase is `delayElapsed` at its delay and its next phase. -/
theorem delayPhaseResults : Obligations.DelayPhaseResults := fun s => ⟨exec_dlyCmd s, exec_dlyData s, exec_dlyRest s⟩

theorem dropsSample_iff {s : State} :
    dropsSample s = true ↔ s.cfg.partialPolicy = .dropSample ∧ (s.rxErr = true ∨ s.rxCount.toNat < 6) := by
  simp [dropsSample, frameLen]

/-- Settles O21: DECRPT records what is reported, nothing when the Sample is dropped and else its eight events. -/
theorem reportPhaseResult : Obligations.ReportPhaseResult := by
  intro s
  rw [← dropsSample_iff, Bool.not_eq_true]
  refine ⟨fun dropped => ?_, fun sent => ?_⟩
  · rw [exec_decrpt, reportEvents_dropped s dropped]
    simp [record, goto]
  · rw [exec_decrpt, reportEvents_sent s sent]
    rfl

/-- Settles O22: the two cases of the cancellation check. -/
theorem checkPhaseResult : Obligations.CheckPhaseResult := by
  intro s
  refine ⟨fun pending => ?_, fun clear => ?_⟩
  · rw [exec_chk, cancellationChecked_pending s pending]
    rfl
  · rw [exec_chk, cancellationChecked_clear s clear]
    rfl

/-- Settles O23: the operation IDLE is the identity, and with no command waiting it is what a step in IDLE performs. -/
theorem idlePhaseResult : Obligations.IdlePhaseResult := by
  intro s
  refine ⟨exec_idle s, fun hp hs => ?_⟩
  rw [step_empty hs, hp]
  exact exec_idle s

/-! ### The table of control transfers -/

/-- The control transfers of the phase operations (41_sequencer.md R101), those of START and of the reset left out. -/
def sequencerTransfer (s : State) (p : Phase) : Prop :=
  (s.phase = .hs ∧ p = .inc) ∨ (s.phase = .inc ∧ p = .dlyCmd) ∨ (s.phase = .dlyCmd ∧ p = .poll) ∨
    (s.phase = .poll ∧ p = .dlyData) ∨ (s.phase = .dlyData ∧ p = .rd6) ∨ (s.phase = .rd6 ∧ p = .decrpt) ∨
    (s.phase = .decrpt ∧ p = .dlyRest) ∨ (s.phase = .dlyRest ∧ p = .chk) ∨
    (s.phase = .chk ∧ s.stopReq = false ∧ p = .hs) ∨ (s.phase = .chk ∧ s.stopReq = true ∧ p = .idle) ∨
    (s.cfg.terrFatal = true ∧ p = .idle ∧
      ((s.phase = .hs ∧ s.script.head? = some (.w2 .err)) ∨ (s.phase = .poll ∧ s.script.head? = some (.w1 .err)) ∨
        (s.phase = .rd6 ∧ s.script.head? = some (.r6 .err))))

section

variable {s t : State}

/-- A bus operation's two ends are transfers of the table when going on is one and, after a fatal error, the abort is one. -/
theorem busOpEnds_transfer {u : State} {failed : Bool} {next : Phase} (hu : u.cfg = s.cfg)
    (goesOn : sequencerTransfer s next) (aborts : failed = true → s.cfg.terrFatal = true → sequencerTransfer s .idle) :
    sequencerTransfer s (busOpEnds failed next u).phase := by
  obtain e | ⟨hfailed, hfatal, e⟩ := busOpEnds_cases u failed next <;> rw [e]
  · exact goesOn
  · exact aborts hfailed (hu ▸ hfatal)

/-- A phase operation leaves PHASE alone or makes a transfer of the table. -/
theorem PhaseCase.transfer (h : PhaseCase s t) : t.phase = s.phase ∨ sequencerTransfer s t.phase := by
  cases h with
  | idle hp => exact .inl rfl
  | waiting hb => exact .inl rfl
  | hsSkipped hp hd => simp [sequencerTransfer, hp]
  | hsAnswered a hp hd ha =>
    rw [handshakeAnswered_eq]
    refine .inr (busOpEnds_transfer rfl (by simp [sequencerTransfer, hp]) fun failed fatal => ?_)
    simp [sequencerTransfer, hp, fatal, ha, of_decide_eq_true failed]
  | inc hp => simp [sequencerTransfer, hp]
  | dlyCmd hp => simp [sequencerTransfer, hp]
  | pollAnswered a hp ha =>
    rw [pollAnswered_eq]
    refine .inr (busOpEnds_transfer rfl (by simp [sequencerTransfer, hp]) fun failed fatal => ?_)
    simp [sequencerTransfer, hp, fatal, ha, of_decide_eq_true failed]
  | dlyData hp => simp [sequencerTransfer, hp]
  | rd6Answered a hp ha =>
    rw [readAnswered_eq]
    refine .inr (busOpEnds_transfer rfl (by simp [sequencerTransfer, hp]) fun failed fatal => ?_)
    simp [sequencerTransfer, hp, fatal, ha, of_decide_eq_true failed]
  | decrpt hp => simp [sequencerTransfer, hp]
  | dlyRest hp => simp [sequencerTransfer, hp]
  | chk hp =>
    obtain ⟨pending, e⟩ | ⟨clear, e⟩ := cancellationChecked_cases s <;> rw [e]
    · simp [sequencerTransfer, hp, pending]
    · simp [sequencerTransfer, hp, clear]

end

/-- Settles O35: a reset and a START have their own entries, a STOP and a probe leave PHASE alone, and a phase operation's entry
is `PhaseCase.transfer`, the item `advance` taken or not. -/
theorem phaseTransfersOnlyByTable : Obligations.PhaseTransfersOnlyByTable := by
  intro s t hrun h
  cases step_cases s h with
  | reset draw hh => exact .inr (.inl ⟨draw, hh, rfl⟩)
  | passed hh hp => exact .inl rfl
  | start hh =>
    obtain ⟨-, e⟩ | ⟨stopped, e⟩ := startCommand_cases (popItem s) <;> rw [e]
    · exact .inl rfl
    · exact .inr (.inr (.inl ⟨hrun.2 stopped, rfl, hh, stopped⟩))
  | stop hh => obtain ⟨-, e⟩ | ⟨-, e⟩ := stopCommand_cases (popItem s) <;> rw [e] <;> exact .inl rfl
  | probe v hn ht => exact .inl rfl
  | phase _ turn ht => exact ht.transfer.imp_right fun h => .inr (.inr h)
  | advanced _ hh hb ht =>
    obtain ⟨t', ht', rfl⟩ := ht.of_popItem hb
    exact ht'.transfer.imp_right fun h => .inr (.inr h)

end Sys2Proof.Machine

/-! PROOFS. Whole cycles of the sequencer (41_sequencer.md R90, R102, R104). -/

namespace Sys2Proof.Machine

open Sys2Proof

/-! ### One cycle

A cycle is cut at its bus operations: from HS to POLL, from POLL to RD6, from RD6 to CHK, and the cancellation check. No error
ends it when errors are not fatal or when there are none. -/

section

variable {s : State} {rest : List Item} {a : WriteAnswer 2} {b : WriteAnswer 1} {c : ReadAnswer}

/-- The scenario of a cycle begins with an answer for the handshake write exactly when one is due. -/
theorem step_hs_goesOn (hp : s.phase = .hs) (hs : s.script = (if s.cycleCounter % 10 = 0 then [.w2 a] else []) ++ rest)
    (hrest : rest.all isAnswer = true) (ok : a = .err → s.cfg.terrFatal = false) :
    step s = .next { s with
      phase := .inc, script := rest,
      status := s.status ||| raisedMask (if s.cycleCounter % 10 = 0 then handshakeConds a else []),
      trace := s.trace ++
        if s.cycleCounter % 10 = 0 then .busWrite [0x40, 0x00] (writeResult a) :: handshakeConds a else [] } := by
  have busy : s.phase ≠ .idle := by simp [hp]
  by_cases due : s.cycleCounter % 10 = 0
  · simp only [due, if_true] at hs ⊢
    rw [step_fits s _ _ busy hs rfl (by simp [answersPhase, hp]), hp]
    exact exec_hs_goesOn due hs ok
  · simp only [due, if_false] at hs ⊢
    have notDue : handshakeDue s = false := handshakeDue_eq_false_iff.2 due
    obtain rfl : s.script = rest := hs
    rw [step_passes s busy ((issuesBusOp_hs hp).trans notDue) hrest, hp]
    simp [Phase.instr, exec_hs_skips s notDue, goto, raisedMask]

theorem step_inc (hp : s.phase = .inc) (hs : s.script.all isAnswer = true) :
    step s = .next { s with phase := .dlyCmd, cycleCounter := nextCounter s.cfg.cw s.cycleCounter } := by
  rw [step_passes s (by simp [hp]) (by simp [issuesBusOp, hp]) hs, hp]
  exact exec_inc s

/-- The three delay phases, by the table of their delays. -/
theorem step_delay {d : DelayName} {next : Phase} (hd : phaseDelay s.phase = some (d, next))
    (hs : s.script.all isAnswer = true) :
    step s = .next { s with phase := next, trace := s.trace ++ [.delay d] } := by
  cases hp : s.phase <;> simp only [hp, phaseDelay, reduceCtorEq, Option.some.injEq, Prod.mk.injEq] at hd
  all_goals
    obtain ⟨rfl, rfl⟩ := hd
    rw [step_passes s (by simp [hp]) (by simp [issuesBusOp, hp]) hs, hp]
    rfl

theorem step_poll_goesOn (hp : s.phase = .poll) (hs : s.script = .w1 b :: rest) (ok : b = .err → s.cfg.terrFatal = false) :
    step s = .next { s with
      phase := .dlyData, script := rest, status := s.status ||| raisedMask (pollConds b),
      trace := s.trace ++ .busWrite [0x00] (writeResult b) :: pollConds b } := by
  rw [step_fits s _ _ (by simp [hp]) hs rfl (by simp [answersPhase, hp]), hp]
  exact exec_poll_goesOn hs ok

theorem step_rd6_goesOn (hp : s.phase = .rd6) (hs : s.script = .r6 c :: rest) (ok : c = .err → s.cfg.terrFatal = false) :
    step s = .next { s with
      phase := .decrpt, script := rest, frame := frameAfterRead s.frame c, rxCount := rxCountAfterRead c,
      rxErr := decide (c = .err), status := s.status ||| raisedMask (readConds c),
      trace := s.trace ++ .busRead 6 (readResult c) :: readConds c } := by
  rw [step_fits s _ _ (by simp [hp]) hs rfl (by simp [answersPhase, hp]), hp]
  exact exec_rd6_goesOn hs ok

theorem step_decrpt (hp : s.phase = .decrpt) (hs : s.script.all isAnswer = true) :
    step s = .next { s with phase := .dlyRest, trace := s.trace ++ reportEvents s } := by
  rw [step_passes s (by simp [hp]) (by simp [issuesBusOp, hp]) hs, hp]
  exact exec_decrpt s

theorem step_chk (hp : s.phase = .chk) (hs : s.script.all isAnswer = true) :
    step s = .next { s with
      run := s.run && !s.stopReq, stopReq := false, phase := if s.stopReq then .idle else .hs,
      trace := s.trace ++ if s.stopReq then [.stopped] else [] } := by
  rw [step_passes s (by simp [hp]) (by simp [issuesBusOp, hp]) hs, hp]
  simp only [Phase.instr, exec_chk]
  obtain ⟨pending, e⟩ | ⟨clear, e⟩ := cancellationChecked_cases s <;> rw [e]
  · simp [abortSession, pending]
  · simp [goto, clear]

/-! What the read left says whether the Sample is dropped. -/

theorem shortOrFailed_iff : shortOrFailed c = true ↔ decide (c = .err) = true ∨ (rxCountAfterRead c).toNat < 6 := by
  cases c with
  | err => simp [shortOrFailed]
  | bytes bs =>
    have fits : bs.val.length % 8 = bs.val.length := Nat.mod_eq_of_lt (Nat.lt_of_le_of_lt bs.property (by decide))
    simp [shortOrFailed, rxCountAfterRead, fits]

theorem reportEvents_afterRead (hcount : s.rxCount = rxCountAfterRead c) (herr : s.rxErr = decide (c = .err)) :
    reportEvents s =
      if s.cfg.partialPolicy = .dropSample ∧ shortOrFailed c = true then [] else sampleEvents (decodeFrame s.frame) := by
  simp only [reportEvents, dropsSample_iff, hcount, herr, ← shortOrFailed_iff]

/-! The parts of a cycle. -/

theorem runSteps_hs_to_poll (hp : s.phase = .hs)
    (hs : s.script = (if s.cycleCounter % 10 = 0 then [.w2 a] else []) ++ rest) (hrest : rest.all isAnswer = true)
    (ok : a = .err → s.cfg.terrFatal = false) :
    runSteps 3 s = .next { s with
      phase := .poll, script := rest, cycleCounter := nextCounter s.cfg.cw s.cycleCounter,
      status := s.status ||| raisedMask (if s.cycleCounter % 10 = 0 then handshakeConds a else []),
      trace := s.trace ++
        (if s.cycleCounter % 10 = 0 then .busWrite [0x40, 0x00] (writeResult a) :: handshakeConds a else []) ++
        [.delay .settleCmd] } := by
  rw [runSteps_succ 2 (step_hs_goesOn hp hs hrest ok), runSteps_succ 1 (step_inc rfl hrest),
    runSteps_succ 0 (step_delay rfl hrest)]
  rfl

theorem runSteps_poll_to_rd6 (hp : s.phase = .poll) (hs : s.script = .w1 b :: rest) (hrest : rest.all isAnswer = true)
    (ok : b = .err → s.cfg.terrFatal = false) :
    runSteps 2 s = .next { s with
      phase := .rd6, script := rest, status := s.status ||| raisedMask (pollConds b),
      trace := s.trace ++ .busWrite [0x00] (writeResult b) :: pollConds b ++ [.delay .settleData] } := by
  rw [runSteps_succ 1 (step_poll_goesOn hp hs ok), runSteps_succ 0 (step_delay rfl hrest)]
  rfl

theorem runSteps_rd6_to_chk (hp : s.phase = .rd6) (hs : s.script = .r6 c :: rest) (hrest : rest.all isAnswer = true)
    (ok : c = .err → s.cfg.terrFatal = false) :
    runSteps 3 s = .next { s with
      phase := .chk, script := rest, frame := frameAfterRead s.frame c, rxCount := rxCountAfterRead c,
      rxErr := decide (c = .err), status := s.status ||| raisedMask (readConds c),
      trace := s.trace ++ .busRead 6 (readResult c) :: readConds c ++
        (if s.cfg.partialPolicy = .dropSample ∧ shortOrFailed c = true then []
          else sampleEvents (decodeFrame (frameAfterRead s.frame c))) ++ [.delay .rest] } := by
  rw [runSteps_succ 2 (step_rd6_goesOn hp hs ok), runSteps_succ 1 (step_decrpt rfl hrest),
    runSteps_succ 0 (step_delay rfl hrest), reportEvents_afterRead rfl rfl]
  rfl

/-- The state after a whole cycle with these answers that no error ends. -/
def afterCycle (a : WriteAnswer 2) (b : WriteAnswer 1) (c : ReadAnswer) (rest : List Item) (s : State) : State :=
  let ofHandshake := if s.cycleCounter % 10 = 0 then handshakeConds a else []
  { s with
    script := rest
    run := s.run && !s.stopReq
    stopReq := false
    phase := if s.stopReq then .idle else .hs
    cycleCounter := (s.cycleCounter + 1) % 2 ^ s.cfg.cw
    frame := frameAfterRead s.frame c
    rxCount := rxCountAfterRead c
    rxErr := decide (c = .err)
    status := s.status ||| raisedMask (ofHandshake ++ pollConds b ++ readConds c)
    trace := s.trace ++
      (if s.cycleCounter % 10 = 0 then [.busWrite [0x40, 0x00] (writeResult a)] else []) ++ ofHandshake ++
      [.delay .settleCmd, .busWrite [0x00] (writeResult b)] ++ pollConds b ++
      [.delay .settleData, .busRead 6 (readResult c)] ++ readConds c ++
      (if s.cfg.partialPolicy = .dropSample ∧ shortOrFailed c = true then []
        else sampleEvents (decodeFrame (frameAfterRead s.frame c))) ++
      [.delay .rest] ++ (if s.stopReq then [.stopped] else []) }

/-- A cycle with an answer for each of its requests takes nine steps (41_sequencer.md R90). -/
theorem runSteps_cycle (hp : s.phase = .hs)
    (hs : s.script = (if s.cycleCounter % 10 = 0 then [.w2 a] else []) ++ .w1 b :: .r6 c :: rest)
    (hrest : rest.all isAnswer = true) (ok : a = .err ∨ b = .err ∨ c = .err → s.cfg.terrFatal = false) :
    runSteps 9 s = .next (afterCycle a b c rest s) := by
  rw [runSteps_add 3 6 (runSteps_hs_to_poll hp hs hrest fun h => ok (.inl h)),
    runSteps_add 2 4 (runSteps_poll_to_rd6 rfl rfl (by exact hrest) (by exact fun h => ok (.inr (.inl h)))),
    runSteps_add 3 1 (runSteps_rd6_to_chk rfl rfl hrest (by exact fun h => ok (.inr (.inr h)))),
    runSteps_succ 0 (step_chk rfl hrest)]
  by_cases due : s.cycleCounter % 10 = 0 <;>
    simp [runSteps, afterCycle, nextCounter, due, raisedMask, raisedMask_append, BitVec.or_assoc]

end

/-- Settles O46: when errors are not fatal no answer ends the cycle. -/
theorem nonFatalCycleTrace : Obligations.NonFatalCycleTrace := by
  intro s a b c rest hp logged hrest hs
  exact runSteps_cycle hp hs hrest fun _ => logged

end Sys2Proof.Machine

/-! PROOFS. The cadence of the handshake writes (41_sequencer.md R102) and the stop latency (R104). -/

namespace Sys2Proof.Machine

open Sys2Proof

/-! ### The counter over many cycles -/

theorem nextCounter_add_mod (cw c j : Nat) : nextCounter cw ((c + j) % 2 ^ cw) = (c + (j + 1)) % 2 ^ cw := by
  rw [nextCounter, Nat.mod_add_mod, Nat.add_assoc]

/-- The counter after `j` increments, wrapped as often as it takes. -/
theorem nextCounter_iterate {cw c : Nat} (hc : c < 2 ^ cw) (j : Nat) : (nextCounter cw)^[j] c = (c + j) % 2 ^ cw := by
  induction j with
  | zero => exact (Nat.mod_eq_of_lt hc).symm
  | succ j ih => rw [Function.iterate_succ_apply', ih, nextCounter_add_mod]

/-- Every positive power of 16 ends in 6. -/
theorem sixteen_pow_succ_mod_ten (q : Nat) : 16 ^ (q + 1) % 10 = 6 := by
  induction q with
  | zero => rfl
  | succ q ih => rw [pow_succ, Nat.mul_mod, ih]

theorem two_pow_mod_ten {cw : Nat} (hcw : 4 ≤ cw) :
    2 ^ cw % 10 = if cw % 4 = 0 then 6 else if cw % 4 = 1 then 2 else if cw % 4 = 2 then 4 else 8 := by
  obtain ⟨q, hq⟩ : ∃ q, cw / 4 = q + 1 := Nat.exists_eq_succ_of_ne_zero (by omega)
  have split : 2 ^ cw = 16 ^ (q + 1) * 2 ^ (cw % 4) := by
    rw [← hq, show 16 = 2 ^ 4 by rfl, ← pow_mul, ← pow_add, Nat.div_add_mod]
  have small : cw % 4 < 4 := Nat.mod_lt _ (by decide)
  rw [split, Nat.mul_mod, sixteen_pow_succ_mod_ten]
  interval_cases cw % 4 <;> rfl

/-- Settles O48: `2 ^ cw` is no multiple of ten, so its last digit is the distance from the multiple below it; up to there the
counter does not wrap. -/
theorem handshakeDistanceAtWrap : Obligations.HandshakeDistanceAtWrap := by
  intro cw hcw last
  have digit := two_pow_mod_ten hcw
  have noMultiple : 2 ^ cw % 10 ≠ 0 := by rw [digit]; split_ifs <;> decide
  have pos : 0 < 2 ^ cw := Nat.two_pow_pos cw
  have wraps : last + 2 ^ cw % 10 = 2 ^ cw := by omega
  have below : last < 2 ^ cw := by omega
  refine ⟨?_, fun j hpos hj => ?_, digit⟩
  · rw [nextCounter_iterate below, wraps, Nat.mod_self]
  · have unwrapped : last + j < 2 ^ cw := by omega
    rw [nextCounter_iterate below, Nat.mod_eq_of_lt unwrapped]
    omega

/-! ### The cadence -/

section

variable {s t : State} {f : Frame} {rest : List Item}

theorem okItems_eq (c : Nat) (f : Frame) :
    okItems c f ++ rest =
      (if c % 10 = 0 then [.w2 (.count 2)] else []) ++ .w1 (.count 1) :: .r6 (fullRead f) :: rest := by
  by_cases due : c % 10 = 0
  · rw [okItems, if_pos (show c % hsPeriod = 0 from due), if_pos due]
    rfl
  · rw [okItems, if_neg (show ¬ c % hsPeriod = 0 from due), if_neg due]
    rfl

theorem okItemsN_isAnswer (cw n c : Nat) (f : Frame) : (okItemsN cw n c f).all isAnswer = true := by
  induction n generalizing c with
  | zero => rfl
  | succ n ih =>
    rw [okItemsN, List.all_append, ih, Bool.and_true, okItems]
    split <;> rfl

/-- A successful cycle without a stop pending: the next one begins, and the trace has grown by the cycle's events. -/
theorem runSteps_okCycle (hp : s.phase = .hs) (clear : s.stopReq = false)
    (hs : s.script = okItems s.cycleCounter f ++ rest) (hrest : rest.all isAnswer = true) :
    runSteps 9 s = .next { s with
      script := rest, phase := .hs, cycleCounter := nextCounter s.cfg.cw s.cycleCounter, frame := f, rxCount := 6,
      rxErr := false, trace := s.trace ++ okCycleEvents (decide (s.cycleCounter % 10 = 0)) f } := by
  rw [runSteps_cycle hp (hs.trans (okItems_eq _ f)) hrest (by simp [fullRead])]
  by_cases due : s.cycleCounter % 10 = 0 <;>
    simp [afterCycle, clear, due, nextCounter, okCycleEvents, handshakeConds, pollConds, readConds, writeResult, readResult,
      raisedMask, shortOrFailed, rxCountAfterRead, fullRead, frameAfterRead, loadFrame]

/-- Cycle `j` of those to come finds the counter at a multiple of ten. -/
def dueAt (s : State) (j : Nat) : Bool := decide ((s.cycleCounter + j) % 2 ^ s.cfg.cw % 10 = 0)

/-- `t` is where `j` of `n` successful cycles from `s` lead. -/
structure OkCyclesDone (n : Nat) (f : Frame) (s : State) (j : Nat) (t : State) : Prop where
  cfg : t.cfg = s.cfg
  clear : t.stopReq = false
  phase : t.phase = .hs
  counter : t.cycleCounter = (s.cycleCounter + j) % 2 ^ s.cfg.cw
  script : t.script = okItemsN s.cfg.cw (n - j) t.cycleCounter f
  trace : t.trace = s.trace ++ (List.range j).flatMap (fun i => okCycleEvents (dueAt s i) f)

theorem OkCyclesDone.next {n j : Nat} (h : OkCyclesDone n f s j t) (hj : j < n) :
    ∃ u, runSteps 9 t = .next u ∧ OkCyclesDone n f s (j + 1) u := by
  have left : n - j = n - (j + 1) + 1 := by omega
  have hscript := h.script
  rw [left, okItemsN] at hscript
  refine ⟨_, runSteps_okCycle h.phase h.clear hscript (okItemsN_isAnswer _ _ _ f), ?_⟩
  exact {
    cfg := h.cfg
    clear := h.clear
    phase := rfl
    counter := by simp only [h.cfg, h.counter, nextCounter_add_mod]
    script := by simp only [h.cfg]
    trace := by simp [h.trace, h.counter, dueAt, List.range_succ] }

theorem runSteps_okCycles {n : Nat} (hp : s.phase = .hs) (clear : s.stopReq = false) (hc : s.cycleCounter < 2 ^ s.cfg.cw)
    (hs : s.script = okItemsN s.cfg.cw n s.cycleCounter f) {j : Nat} (hj : j ≤ n) :
    ∃ t, runSteps (9 * j) s = .next t ∧ OkCyclesDone n f s j t := by
  induction j with
  | zero => exact ⟨s, rfl, rfl, clear, hp, (Nat.mod_eq_of_lt hc).symm, hs, by simp⟩
  | succ j ih =>
    obtain ⟨t, ht, done⟩ := ih (by omega)
    obtain ⟨u, hu, done'⟩ := done.next hj
    exact ⟨u, (runSteps_add (9 * j) 9 ht).trans hu, done'⟩

/-- A successful cycle makes one handshake write or none. -/
theorem handshakeWrites_okCycleEvents (due : Bool) (f : Frame) :
    handshakeWrites (okCycleEvents due f) = if due then 1 else 0 := by
  cases due <;> rfl

theorem handshakeWrites_okCycles (due : Nat → Bool) (f : Frame) (cycles : List Nat) :
    handshakeWrites (cycles.flatMap fun i => okCycleEvents (due i) f) = (cycles.filter due).length := by
  induction cycles with
  | nil => rfl
  | cons i rest ih =>
    rw [List.flatMap_cons, handshakeWrites_append, handshakeWrites_okCycleEvents, ih, List.filter_cons]
    split <;> simp [Nat.add_comm]

end

/-- Settles O47: cycle after cycle by `OkCyclesDone.next`; the count is that of the trace after all of them. -/
theorem handshakeCadence : Obligations.HandshakeCadence := by
  intro n s f hp clear hc hs due
  refine ⟨fun j hj => ?_, ?_⟩
  · obtain ⟨t, ht, done⟩ := runSteps_okCycles hp clear hc hs hj
    exact ⟨t, ht, done.phase, done.counter, done.script, done.trace⟩
  · obtain ⟨t, ht, done⟩ := runSteps_okCycles hp clear hc hs (Nat.le_refl n)
    refine ⟨t, ht, ?_⟩
    rw [done.trace, handshakeWrites_append, handshakeWrites_okCycles]
    rfl

/-! ### The stop latency -/

/-- The session has ended and `Stopped` is the last event. -/
def State.hasStopped (s : State) : Prop := s.run = false ∧ s.phase = .idle ∧ s.trace.getLast? = some .stopped

/-- How many answered steps it takes from a phase until CHK has been performed. -/
def stepsToStop : Phase → Nat
  | .idle => 0
  | .hs => 9
  | .inc => 8
  | .dlyCmd => 7
  | .poll => 6
  | .dlyData => 5
  | .rd6 => 4
  | .decrpt => 3
  | .dlyRest => 2
  | .chk => 1

theorem stepsToStop_eq_zero {p : Phase} : stepsToStop p = 0 ↔ p = .idle := by cases p <;> decide

theorem stepsToStop_le (p : Phase) : stepsToStop p ≤ 9 := by cases p <;> decide

/-- What an answered step leads to while a stop is pending: the end of the session, or a phase nearer to it with the stop still
pending. -/
def servesStop (s t : State) : Prop :=
  t.hasStopped ∨ t.phase ≠ .idle ∧ t.stopReq = true ∧ stepsToStop t.phase + 1 = stepsToStop s.phase

section

variable {s u : State} {a : CycleAnswers}

theorem abortSession_hasStopped (s : State) : (abortSession s).hasStopped := ⟨rfl, rfl, by simp⟩

theorem goto_servesStop {next : Phase} (pending : u.stopReq = true) (busy : next ≠ .idle)
    (nearer : stepsToStop next + 1 = stepsToStop s.phase) : servesStop s (goto next u) :=
  .inr ⟨busy, pending, nearer⟩

theorem busOpEnds_servesStop {failed : Bool} {next : Phase} (pending : u.stopReq = true) (busy : next ≠ .idle)
    (nearer : stepsToStop next + 1 = stepsToStop s.phase) : servesStop s (busOpEnds failed next u) := by
  obtain e | ⟨-, -, e⟩ := busOpEnds_cases u failed next <;> rw [e]
  · exact goto_servesStop pending busy nearer
  · exact .inl (abortSession_hasStopped u)

/-- What is offered is nothing, or one answer in the shape of the phase's request. -/
theorem offerAnswer_script_cases (a : CycleAnswers) (s : State) :
    (offerAnswer a s).script = [] ∨
      ∃ it, (offerAnswer a s).script = [it] ∧ isAnswer it = true ∧ answersPhase s.phase it = true := by
  cases hp : s.phase with
  | hs =>
    cases due : handshakeDue s with
    | true => exact .inr ⟨.w2 a.hs, by simp [offerAnswer, hp, due], rfl, rfl⟩
    | false => exact .inl (by simp [offerAnswer, hp, due])
  | poll => exact .inr ⟨.w1 a.poll, by simp [offerAnswer, hp], rfl, rfl⟩
  | rd6 => exact .inr ⟨.r6 a.read, by simp [offerAnswer, hp], rfl, rfl⟩
  | _ => exact .inl (by simp [offerAnswer, hp])

theorem step_offerAnswer (busy : s.phase ≠ .idle) : step (offerAnswer a s) = exec s.phase.instr (offerAnswer a s) := by
  obtain none | ⟨it, one, ha, fits⟩ := offerAnswer_script_cases a s
  · exact step_empty none
  · exact step_fits (offerAnswer a s) it [] busy one ha fits

/-- With its request answered every phase moves on towards CHK, and CHK serves the stop. -/
theorem answeredStep_servesStop (busy : s.phase ≠ .idle) (pending : s.stopReq = true) :
    ∃ t, step (offerAnswer a s) = .next t ∧ servesStop s t := by
  rw [step_offerAnswer busy]
  cases hp : s.phase with
  | idle => exact absurd hp busy
  | hs =>
    by_cases due : s.cycleCounter % 10 = 0
    · have offered : (offerAnswer a s).script = [.w2 a.hs] := by simp [offerAnswer, hp, handshakeDue_iff.2 due]
      exact ⟨_, exec_hs_ends due offered, busOpEnds_servesStop pending nofun (by rw [hp]; rfl)⟩
    · have notDue : handshakeDue (offerAnswer a s) = false := handshakeDue_eq_false_iff.2 due
      exact ⟨_, exec_hs_skips _ notDue, goto_servesStop pending nofun (by rw [hp]; rfl)⟩
  | poll =>
    have offered : (offerAnswer a s).script = [.w1 a.poll] := by simp [offerAnswer, hp]
    exact ⟨_, exec_poll_ends offered, busOpEnds_servesStop pending nofun (by rw [hp]; rfl)⟩
  | rd6 =>
    have offered : (offerAnswer a s).script = [.r6 a.read] := by simp [offerAnswer, hp]
    exact ⟨_, exec_rd6_ends offered, busOpEnds_servesStop pending nofun (by rw [hp]; rfl)⟩
  | chk =>
    refine ⟨_, exec_chk _, .inl ?_⟩
    rw [cancellationChecked_pending (offerAnswer a s) pending]
    exact abortSession_hasStopped _
  | inc => exact ⟨_, exec_inc _, goto_servesStop pending nofun (by rw [hp]; rfl)⟩
  | dlyCmd => exact ⟨_, exec_dlyCmd _, goto_servesStop pending nofun (by rw [hp]; rfl)⟩
  | dlyData => exact ⟨_, exec_dlyData _, goto_servesStop pending nofun (by rw [hp]; rfl)⟩
  | decrpt => exact ⟨_, exec_decrpt _, goto_servesStop pending nofun (by rw [hp]; rfl)⟩
  | dlyRest => exact ⟨_, exec_dlyRest _, goto_servesStop pending nofun (by rw [hp]; rfl)⟩

theorem answeredRun_succ {t : State} (k : Nat) (h : step (offerAnswer a s) = .next t) :
    answeredRun a (k + 1) s = answeredRun a k t := by
  simp [answeredRun, h]

theorem answeredRun_hasStopped {n : Nat} (busy : s.phase ≠ .idle) (pending : s.stopReq = true)
    (hn : stepsToStop s.phase = n) : ∃ k t, k ≤ n ∧ answeredRun a k s = .next t ∧ t.hasStopped := by
  induction n generalizing s with
  | zero => exact absurd (stepsToStop_eq_zero.1 hn) busy
  | succ n ih =>
    obtain ⟨t, ht, stopped | ⟨busy', pending', nearer⟩⟩ := answeredStep_servesStop (a := a) busy pending
    · exact ⟨1, t, by omega, answeredRun_succ 0 ht, stopped⟩
    · obtain ⟨k, u, hk, hu, stopped⟩ := ih busy' pending' (by omega)
      exact ⟨k + 1, u, by omega, (answeredRun_succ k ht).trans hu, stopped⟩

end

/-- Settles O49: a running session's phase is at most nine answered steps from the end of CHK. -/
theorem pendingStopIsServed : Obligations.PendingStopIsServed := by
  rintro s a ⟨idle_iff, -⟩ running pending
  have busy : s.phase ≠ .idle := fun hp => by simp [idle_iff.1 hp] at running
  obtain ⟨k, t, hk, ht, stopped⟩ := answeredRun_hasStopped (a := a) busy pending rfl
  exact ⟨k, t, hk.trans (stepsToStop_le s.phase), ht, stopped⟩

end Sys2Proof.Machine

/-! PROOFS. The session (42_session.md): the host's two commands, both in one clock, and the quiet between a `Stopped` and the next
start (R124). A phase operation records activity, and behind it `Stopped` where it ends the session; without a session it records
nothing. -/

namespace Sys2Proof.Machine

open Sys2Proof

/-! ### The commands -/

/-- Settles O24, by the two cases of a start. -/
theorem startCommandResult : Obligations.StartCommandResult := by
  intro s
  refine ⟨fun stopped => ?_, fun running => ?_⟩
  · rw [exec_start, startCommand_stopped s stopped]; rfl
  · rw [exec_start, startCommand_running s running]; rfl

/-- Settles O25, by the two cases of a stop. -/
theorem stopCommandResult : Obligations.StopCommandResult := by
  intro s
  refine ⟨fun running => ?_, fun stopped => ?_⟩
  · rw [exec_stop, stopCommand_running s running]; rfl
  · rw [exec_stop, stopCommand_stopped s stopped]; rfl

/-! ### The commands of one clock -/

/-- The events of a clock's commands, STOP before START (42_session.md R123). -/
def commandEvents (inp : PortsIn) : List Event :=
  (if inp.cmdStop then [.hostStop] else []) ++ (if inp.cmdStart then [.hostStart] else [])

/-- The inputs of an edge with its command pins at 0. -/
def withoutCommands (inp : PortsIn) : PortsIn := { inp with cmdStart := false, cmdStop := false }

section

variable (f : ClockFreq) (inp : PortsIn) {s : State}

/-- The two bits of the CMD word (30_encoding.md R55). -/
theorem commandsClock_eq (s : State) : commandsClock inp s =
    (if inp.cmdStart then startCommand else id) ((if inp.cmdStop then stopCommand else id) s) := by
  cases hStop : inp.cmdStop <;> cases hStart : inp.cmdStart <;> simp [commandsClock, commandWord, hStop, hStart]

/-- While a session runs, a START is only recorded and a STOP is pending (42_session.md R121, R122). -/
theorem commandsClock_running (hr : s.run = true) : commandsClock inp s =
    { s with stopReq := s.stopReq || inp.cmdStop, trace := s.trace ++ commandEvents inp } := by
  rw [commandsClock_eq, commandEvents]
  cases inp.cmdStop <;> cases inp.cmdStart <;>
    simp (disch := exact hr) [stopCommand_running, startCommand_running, record]

/-- Without a session a STOP is only recorded, so a START with it begins one all the same (42_session.md R123). -/
theorem commandsClock_stopped_start (hr : s.run = false) (hc : inp.cmdStart = true) : commandsClock inp s =
    { s with run := true, stopReq := false, cycleCounter := 0, status := 0, phase := .hs,
             trace := s.trace ++ commandEvents inp } := by
  rw [commandsClock_eq, commandEvents, hc]
  cases inp.cmdStop <;> simp (disch := exact hr) [stopCommand_stopped, startCommand_stopped, record]

theorem commandsClock_stopped_noStart (hr : s.run = false) (hc : inp.cmdStart = false) : commandsClock inp s =
    { s with trace := s.trace ++ commandEvents inp } := by
  rw [commandsClock_eq, commandEvents, hc]
  cases inp.cmdStop <;> simp (disch := exact hr) [stopCommand_stopped, record]

/-- Where nothing is recorded, no pulse is queued. -/
theorem pulsesAfter_self (s : State) : pulsesAfter s s = s.condPulses.tail := by
  simpa [raisedConds] using pulsesAfter_of_trace (t := s) [] (by simp)

/-- An edge without reset that finds the sequencer idle: the commands, and the shown pulse ends. -/
theorem clockEdge_idle (h : inp.rst = false) (hp : s.phase = .idle) :
    clockEdge f inp s = { commandsClock inp s with condPulses := s.condPulses.tail } := by
  simp only [clockEdge, h, hp, if_true, pulsesAfter_self, commandsClock_condPulses]
  rfl

/-- The sequencer's move does not look at the command pins. -/
theorem sequencerClock_withoutCommands (s : State) :
    sequencerClock f (withoutCommands inp) s = sequencerClock f inp s := rfl

/-- At an edge that leaves the sequencer busy the commands come first, and the rest is an edge without commands. -/
theorem clockEdge_commands_first (h : inp.rst = false) (hp : s.phase ≠ .idle) (hc : (commandsClock inp s).phase ≠ .idle) :
    clockEdge f inp s = clockEdge f (withoutCommands inp) (commandsClock inp s) := by
  rw [clockEdge_busy f inp s h hp, clockEdge_busy f (withoutCommands inp) _ h hc,
    commandsClock_none (withoutCommands inp) _ rfl rfl, sequencerClock_withoutCommands]

end

/-- Settles O26: an idle edge is the commands alone; a busy edge is the commands and then an edge without commands. -/
theorem bothCommandsInOneClock : Obligations.BothCommandsInOneClock := by
  refine ⟨rfl, rfl, fun f inp s noReset => ⟨fun idle stopped => ⟨fun hc => ?_, fun hc => ?_⟩, fun busy running => ?_⟩⟩
  · rw [clockEdge_idle f inp noReset idle, commandsClock_stopped_start inp stopped hc]; rfl
  · rw [clockEdge_idle f inp noReset idle, commandsClock_stopped_noStart inp stopped hc]; rfl
  · have told := commandsClock_running inp running
    rw [clockEdge_commands_first f inp noReset busy (by rw [told]; exact busy), told]; rfl

/-! ### Quiet after `Stopped` -/

/-- What `State.Quiet` says of the trace: it is quiet, and a session that runs was started. -/
def State.TraceQuiet (s : State) : Prop :=
  (s.run = true → sessionOpen false s.trace = true) ∧ quietTrace false s.trace = true

/-- From `s` to `t` activity is recorded: RUN stays, or the session ends and `Stopped` stands behind it (42_session.md R124). -/
def recordsActivity (s t : State) : Prop :=
  ∃ es, es.all isActivity = true ∧
    (t.run = s.run ∧ t.trace = s.trace ++ es ∨ t.run = false ∧ t.trace = s.trace ++ (es ++ [.stopped]))

/-! Activity neither starts nor ends a session, and an open session may be active. -/

theorem sessionOpen_activity (o : Bool) {es : List Event} (h : es.all isActivity = true) : sessionOpen o es = o := by
  induction es with
  | nil => rfl
  | cons e es ih =>
    obtain ⟨he, hes⟩ : isActivity e = true ∧ es.all isActivity = true := by simpa using h
    cases e with
    | hostStart | hostStop | stopped => cases he
    | _ => exact ih hes

theorem quietTrace_activity {es : List Event} (h : es.all isActivity = true) : quietTrace true es = true := by
  induction es with
  | nil => rfl
  | cons e es ih =>
    obtain ⟨he, hes⟩ : isActivity e = true ∧ es.all isActivity = true := by simpa using h
    cases e with
    | hostStart | hostStop | stopped => cases he
    | _ => exact ih hes

/-! The events of a phase operation are activity. -/

theorem handshakeConds_activity (a : WriteAnswer 2) : (handshakeConds a).all isActivity = true := by
  cases a with
  | err => rfl
  | count k => by_cases h : k.val < 2 <;> simp [handshakeConds, h, isActivity]

theorem pollConds_activity (a : WriteAnswer 1) : (pollConds a).all isActivity = true := by
  cases a with
  | err => rfl
  | count k => by_cases h : k.val = 0 <;> simp [pollConds, h, isActivity]

theorem readConds_activity (a : ReadAnswer) : (readConds a).all isActivity = true := by
  cases a with
  | err => rfl
  | bytes bs => by_cases h : bs.val.length < 6 <;> simp [readConds, h, isActivity]

theorem reportEvents_activity (s : State) : (reportEvents s).all isActivity = true := by
  cases hd : dropsSample s with
  | true => rw [reportEvents_dropped s hd]; rfl
  | false => rw [reportEvents_sent s hd]; rfl

section

variable {s t u : State}

theorem quiet_iff : s.Quiet ↔ (s.phase = .idle ↔ s.run = false) ∧ s.TraceQuiet := Iff.rfl

/-- In a running session activity is quiet, and so is the `Stopped` behind it. -/
theorem recordsActivity.traceQuiet (h : recordsActivity s t) (running : s.run = true) (hq : s.TraceQuiet) :
    t.TraceQuiet := by
  obtain ⟨started, quiet⟩ := hq
  obtain ⟨es, active, ⟨sameRun, e⟩ | ⟨ended, e⟩⟩ := h
  · refine ⟨fun _ => ?_, ?_⟩
    · rw [e, sessionOpen_append, started running, sessionOpen_activity true active]
    · rw [e, quietTrace_append, quiet, started running, quietTrace_activity active]; rfl
  · refine ⟨fun running' => by simp [ended] at running', ?_⟩
    rw [e, quietTrace_append, quiet, started running, quietTrace_append, quietTrace_activity active]; rfl

/-- A bus operation records its event and the conditions of its answer, then goes on or ends the session. -/
theorem busOpEnds_recordsActivity {es : List Event} (failed : Bool) (next : Phase) (active : es.all isActivity = true)
    (sameRun : u.run = s.run) (e : u.trace = s.trace ++ es) : recordsActivity s (busOpEnds failed next u) := by
  refine ⟨es, active, ?_⟩
  obtain hends | ⟨-, -, hends⟩ := busOpEnds_cases u failed next <;> rw [hends]
  · exact .inl ⟨sameRun, e⟩
  · exact .inr ⟨rfl, by simp [e]⟩

/-- A phase operation that only goes on records what it records and leaves RUN alone. -/
theorem recordsActivity_of_trace {es : List Event} (active : es.all isActivity = true) (sameRun : t.run = s.run)
    (e : t.trace = s.trace ++ es) : recordsActivity s t :=
  ⟨es, active, .inl ⟨sameRun, e⟩⟩

theorem recordsActivity_of_same (sameRun : t.run = s.run) (e : t.trace = s.trace) : recordsActivity s t :=
  recordsActivity_of_trace (es := []) rfl sameRun (by simp [e])

/-- A phase operation records activity, and `Stopped` behind it where it ends the session. -/
theorem PhaseCase.recordsActivity (h : PhaseCase s t) : recordsActivity s t := by
  cases h with
  | idle hp => exact recordsActivity_of_same rfl rfl
  | waiting hb => exact recordsActivity_of_same rfl rfl
  | hsSkipped hp hd => exact recordsActivity_of_same rfl rfl
  | hsAnswered a hp hd ha =>
    rw [handshakeAnswered_eq]
    exact busOpEnds_recordsActivity _ _ (by simp [isActivity, handshakeConds_activity]) rfl rfl
  | inc hp => exact recordsActivity_of_same rfl rfl
  | dlyCmd hp => exact recordsActivity_of_trace (es := [.delay .settleCmd]) rfl rfl rfl
  | pollAnswered a hp ha =>
    rw [pollAnswered_eq]
    exact busOpEnds_recordsActivity _ _ (by simp [isActivity, pollConds_activity]) rfl rfl
  | dlyData hp => exact recordsActivity_of_trace (es := [.delay .settleData]) rfl rfl rfl
  | rd6Answered a hp ha =>
    rw [readAnswered_eq]
    exact busOpEnds_recordsActivity _ _ (by simp [isActivity, readConds_activity]) rfl rfl
  | decrpt hp => exact recordsActivity_of_trace (reportEvents_activity s) rfl rfl
  | dlyRest hp => exact recordsActivity_of_trace (es := [.delay .rest]) rfl rfl rfl
  | chk hp =>
    obtain ⟨-, e⟩ | ⟨-, e⟩ := cancellationChecked_cases s <;> rw [e]
    · exact ⟨[], rfl, .inr ⟨rfl, rfl⟩⟩
    · exact recordsActivity_of_same rfl rfl

/-- The idle sequencer does nothing (41_sequencer.md R100). -/
theorem PhaseCase.eq_of_idle (h : PhaseCase s t) (idle : s.phase = .idle) : t = s := by
  cases h with
  | idle | waiting => rfl
  | _ => simp_all

/-- A phase operation keeps the trace quiet: without a session it records nothing, within one it may be active. -/
theorem PhaseCase.traceQuiet (h : PhaseCase s t) (hs : s.Quiet) : t.TraceQuiet := by
  obtain ⟨idle_iff, hq⟩ := quiet_iff.1 hs
  by_cases idle : s.phase = .idle
  · rw [h.eq_of_idle idle]; exact hq
  · have running : s.run = true := by simpa [idle] using idle_iff
    exact h.recordsActivity.traceQuiet running hq

/-- After a START a session is open, whether it began one or was lost. -/
theorem startCommand_traceQuiet (hq : s.TraceQuiet) : (startCommand s).TraceQuiet := by
  obtain ⟨-, quiet⟩ := hq
  refine ⟨fun _ => ?_, ?_⟩
  · rw [startCommand_trace, sessionOpen_append]; rfl
  · rw [startCommand_trace, quietTrace_append, quiet]; rfl

theorem stopCommand_run : (stopCommand s).run = s.run := by
  obtain ⟨-, e⟩ | ⟨-, e⟩ := stopCommand_cases s <;> rw [e] <;> rfl

/-- A STOP is no activity and leaves the session open until its `Stopped`. -/
theorem stopCommand_traceQuiet (hq : s.TraceQuiet) : (stopCommand s).TraceQuiet := by
  obtain ⟨started, quiet⟩ := hq
  refine ⟨fun running => ?_, ?_⟩
  · rw [stopCommand_trace, sessionOpen_append]; exact started (stopCommand_run ▸ running)
  · rw [stopCommand_trace, quietTrace_append, quiet]
    simp [quietTrace, isActivity]

/-- The reset ends a session without an event, so nothing of the trace changes (70_reset_and_hazards.md R160). -/
theorem resetBlock_traceQuiet (draw : Frame) (hq : s.TraceQuiet) : (resetBlock draw s).TraceQuiet := by
  obtain ⟨-, quiet⟩ := hq
  exact ⟨nofun, quiet⟩

theorem StepCase.traceQuiet (h : StepCase s t) (hs : s.Quiet) : t.TraceQuiet := by
  have popped : (popItem s).Quiet := hs
  obtain ⟨-, hq⟩ := quiet_iff.1 popped
  cases h with
  | reset draw hh => exact resetBlock_traceQuiet draw hq
  | passed hh hp => exact hq
  | start hh => exact startCommand_traceQuiet hq
  | stop hh => exact stopCommand_traceQuiet hq
  | probe v hn ht => exact hq
  | phase _ turn ht => exact ht.traceQuiet hs
  | advanced _ hh hb ht => exact ht.traceQuiet popped

end

/-- Settles O43: at reset nothing is recorded and no session runs; a step keeps PHASE with RUN, and each of its cases keeps the
trace quiet. -/
theorem stepKeepsQuietAfterStopped : Obligations.StepKeepsQuietAfterStopped := by
  refine ⟨quiet_iff.2 ⟨iff_of_true rfl rfl, nofun, rfl⟩, fun s t hs h => ?_⟩
  obtain ⟨idle_iff, -⟩ := quiet_iff.1 hs
  exact quiet_iff.2 ⟨(step_ends h).idle_iff idle_iff, (step_cases s h).traceQuiet hs⟩

end Sys2Proof.Machine

/-! PROOFS. Exceptions (60_exceptions.md): what the raise of a condition does (R130), that no operation stops the machine (R143), and
which blocks are built at all (R136). -/

namespace Sys2Proof.Machine

open Sys2Proof

/-! ### The raise of a condition -/

/-- The mask is the one bit that the code numbers; codes 4 and 5 lie past STATUS's four bits (10_state.md R18). -/
theorem statusMask_eq_twoPow (c : Condition) : statusMask c = BitVec.twoPow 4 (condCode c).toNat := by
  cases c <;> rfl

theorem statusMask_getLsbD (c : Condition) {j : Nat} (hj : j < 4) :
    (statusMask c).getLsbD j = decide (j = (condCode c).toNat) := by
  rw [statusMask_eq_twoPow, BitVec.getLsbD_twoPow, Bool.eq_iff_iff, Bool.and_eq_true, decide_eq_true_iff, decide_eq_true_iff,
    decide_eq_true_iff]
  omega

/-- Settles O14: a raise writes `raisedStatus` and the one event by its definition, and the mask that STATUS gains is the bit of the
condition's code. -/
theorem raiseRecordsCondition : Obligations.RaiseRecordsCondition := by
  refine ⟨⟨rfl, rfl, rfl, rfl, rfl, rfl⟩, fun c s => ⟨raisedStatus c s.status, rfl, fun j hj => ?_⟩⟩
  rw [raisedStatus_getLsbD, statusMask_getLsbD c hj]

/-! ### Every operation has a next state -/

section

variable {s : State}

theorem exec_hs_unanswered (due : handshakeDue s = true) (unanswered : ∀ a, s.script.head? ≠ some (.w2 a)) :
    exec .hs s = .next s := by
  simp only [exec, execHs, due, if_true]
  split
  · next a _ hs => exact absurd (by simp [hs]) (unanswered a)
  · rfl

theorem exec_poll_unanswered (unanswered : ∀ a, s.script.head? ≠ some (.w1 a)) : exec .poll s = .next s := by
  simp only [exec, execPoll]
  split
  · next a _ hs => exact absurd (by simp [hs]) (unanswered a)
  · rfl

theorem exec_rd6_unanswered (unanswered : ∀ a, s.script.head? ≠ some (.r6 a)) : exec .rd6 s = .next s := by
  simp only [exec, execRd6]
  split
  · next a _ hs => exact absurd (by simp [hs]) (unanswered a)
  · rfl

/-- The scenario holds the answer at its head or it does not. -/
theorem script_answers_or_not {α : Type} (answer : α → Item) (script : List Item) :
    (∃ a rest, script = answer a :: rest) ∨ ∀ a, script.head? ≠ some (answer a) := by
  by_cases answered : ∃ a, script.head? = some (answer a)
  · obtain ⟨a, ha⟩ := answered
    exact .inl ⟨a, List.head?_eq_some_iff.1 ha⟩
  · exact .inr (not_exists.1 answered)

variable (s)

theorem exec_hs_completes : ∃ t, exec .hs s = .next t := by
  cases due : handshakeDue s with
  | false => exact ⟨_, exec_hs_skips s due⟩
  | true =>
    obtain ⟨a, rest, hs⟩ | unanswered := script_answers_or_not .w2 s.script
    · exact ⟨_, exec_hs_answered s a rest due hs⟩
    · exact ⟨_, exec_hs_unanswered due unanswered⟩

theorem exec_poll_completes : ∃ t, exec .poll s = .next t := by
  obtain ⟨a, rest, hs⟩ | unanswered := script_answers_or_not .w1 s.script
  · exact ⟨_, exec_poll_answered s a rest hs⟩
  · exact ⟨_, exec_poll_unanswered unanswered⟩

theorem exec_rd6_completes : ∃ t, exec .rd6 s = .next t := by
  obtain ⟨a, rest, hs⟩ | unanswered := script_answers_or_not .r6 s.script
  · exact ⟨_, exec_rd6_answered s a rest hs⟩
  · exact ⟨_, exec_rd6_unanswered unanswered⟩

/-- Only the bus operations look at the scenario; each of the others has one next state by its definition. -/
theorem exec_completes (i : Instr) : ∃ t, exec i s = .next t := by
  cases i with
  | hs => exact exec_hs_completes s
  | poll => exact exec_poll_completes s
  | rd6 => exact exec_rd6_completes s
  | _ => exact ⟨_, rfl⟩

end

/-- Settles O34: every operation has a next state by `exec_completes`, and IDLE and each unanswered request stay where they are. -/
theorem everyOperationCompletes : Obligations.EveryOperationCompletes :=
  ⟨fun i s => exec_completes s i, fun s =>
    ⟨exec_idle s, fun due => exec_hs_unanswered (handshakeDue_iff.2 due), exec_poll_unanswered, exec_rd6_unanswered⟩⟩

end Sys2Proof.Machine

namespace Sys2Proof

/-! ### What is built -/

theorem config_wellFormed_iff (c : Config) : c.wellFormed = true ↔ 4 ≤ c.cw := decide_eq_true_iff

section

variable {addr : Nat} {c : Config}

theorem buildInstance_wrongAddress (h : addr ≠ busAddr) : buildInstance addr c = .error (.invalidBusAddress addr) := if_pos h

theorem buildInstance_narrow (h : c.cw < 4) : buildInstance busAddr c = .error (.counterTooNarrow c.cw) := by
  have malformed : ¬ c.wellFormed = true := mt (config_wellFormed_iff c).1 (Nat.not_le.2 h)
  simp [buildInstance, malformed]

theorem buildInstance_ok (h : 4 ≤ c.cw) : buildInstance busAddr c = .ok c := by
  simp [buildInstance, (config_wellFormed_iff c).2 h]

end

/-- Settles O50, by the three answers of an elaboration: the address is looked at first, then the counter's width. -/
theorem instanceNeedsBusAddress : Obligations.InstanceNeedsBusAddress := by
  refine fun addr c => ⟨buildInstance_wrongAddress, ?_, ?_⟩
  · rintro rfl narrow
    exact buildInstance_narrow narrow
  · rintro rfl wide
    exact buildInstance_ok wide

end Sys2Proof

/-! PROOFS. Reset, and how long DECRPT takes (70_reset_and_hazards.md). -/

namespace Sys2Proof.Machine

open Sys2Proof

/-! ### Reset -/

section

variable {s : State} {inp : PortsIn} (f : ClockFreq)

/-- Reset wins over the commands and over the sequencer's move (70_reset_and_hazards.md R160). -/
theorem clockEdge_reset (h : inp.rst = true) : clockEdge f inp s = resetBlock inp.draw s := if_pos h

/-- No pulse, no request and no beat is left, so all the port words show zeros. -/
theorem portsOut_resetBlock (draw : Frame) : portsOut (resetBlock draw s) =
    { running := false, stopping := false, status := 0, condValid := false, condCode := 0, trReqValid := false,
      trReqOp := 0, trReqLen := 0, trReqData := 0, sinkValid := false, sinkKind := 0, sinkChan := 0, sinkValue := 0 } := by
  have noRequest : outstandingRequest (resetBlock draw s) = none := outstandingRequest_none rfl
  have noBeat : sinkShown (resetBlock draw s) = none := sinkShown_silent (.inl Phase.noConfusion)
  simp [portsOut, noRequest, noBeat]

end

/-- Settles O29: the step takes the item and resets the block. -/
theorem resetStepResult : Obligations.ResetStepResult := by
  intro s draw rest h
  rw [step_of_fetch_environment (fetch_reset s draw rest h), popItem_of_script h]
  rfl

/-- Settles O39: the reset state is the reset block of itself, and the reset block is in the invariant for every draw. -/
theorem resetStateInvariant : Obligations.ResetStateInvariant := fun cfg draw script =>
  resetBlock_inv (s := { State.reset with cfg := cfg, script := script }) draw

/-- Settles O54: the edge is the reset of the block, whose port words are all without their valid bit. -/
theorem resetEdgeClearsOutputs : Obligations.ResetEdgeClearsOutputs := by
  intro f inp s h
  rw [clockEdge_reset f h]
  exact ⟨rfl, portsOut_resetBlock inp.draw⟩

/-! ### The clocks of DECRPT -/

section

variable {f : ClockFreq} {inp : PortsIn} {inps : List PortsIn} {s : State}

/-- A beat but the last moves the beat index on and changes nothing else but the pulse showing (30_encoding.md R56). -/
theorem clockEdge_report_beat (hp : s.phase = .decrpt) (hd : dropsSample s = false) (hq : quietEdge inp = true)
    (hbeat : s.sinkBeat ≠ 7) :
    clockEdge f inp s = { s with sinkBeat := s.sinkBeat + 1, condPulses := s.condPulses.tail } := by
  obtain ⟨dropped, -⟩ | ⟨-, last, -⟩ | ⟨-, -, e⟩ := reportClock_cases s
  · simp [hd] at dropped
  · exact absurd last hbeat
  · have moved : sequencerClock f inp s = { s with sinkBeat := s.sinkBeat + 1 } := by
      have goesOn : (dropsSample s || decide (s.sinkBeat = 7)) = false := by rw [hd, decide_eq_false hbeat]; rfl
      simp only [sequencerClock, hp, goesOn, e, Bool.false_eq_true, if_false]
    rw [clockEdge_quiet f inp s hq, moved, pulsesAfter_of_trace [] (by simp)]
    simp [raisedConds]

/-- As many clocks as there are beats before the last only move the beat index on. -/
theorem clockEdges_report_beats (hp : s.phase = .decrpt) (hd : dropsSample s = false)
    (hq : inps.all quietEdge = true) (hbeats : s.sinkBeat.toNat + inps.length < 8) :
    clockEdges f inps s =
      { s with
        sinkBeat := s.sinkBeat + BitVec.ofNat 3 inps.length, condPulses := s.condPulses.drop inps.length } := by
  induction inps generalizing s with
  | nil => simp [clockEdges]
  | cons inp rest ih =>
    simp only [List.all_cons, Bool.and_eq_true] at hq
    obtain ⟨hfirst, hrest⟩ := hq
    simp only [List.length_cons] at hbeats
    have notLast : s.sinkBeat ≠ 7 := by bv_omega
    have left : (s.sinkBeat + 1).toNat + rest.length < 8 := by bv_omega
    have counted : s.sinkBeat + 1 + BitVec.ofNat 3 rest.length = s.sinkBeat + BitVec.ofNat 3 (rest.length + 1) := by
      bv_omega
    calc clockEdges f (inp :: rest) s
      _ = clockEdges f rest (clockEdge f inp s) := rfl
      _ = clockEdges f rest { s with sinkBeat := s.sinkBeat + 1, condPulses := s.condPulses.tail } := by
        rw [clockEdge_report_beat hp hd hfirst notLast]
      _ = { s with
            sinkBeat := s.sinkBeat + 1 + BitVec.ofNat 3 rest.length,
            condPulses := s.condPulses.tail.drop rest.length } := ih hp hd hrest left
      _ = { s with
            sinkBeat := s.sinkBeat + BitVec.ofNat 3 (rest.length + 1),
            condPulses := s.condPulses.drop (rest.length + 1) } := by
        rw [counted, List.drop_tail]

/-- Every beat of a Sample that is sent is valid on the sink port. -/
theorem portsOut_sinkValid_sending (hp : s.phase = .decrpt) (hd : dropsSample s = false) :
    (portsOut s).sinkValid = true := by
  obtain ⟨e, w, he, hw⟩ := sampleEvents_sinkWord (decodeFrame s.frame) s.sinkBeat
  exact (portsOut_sink ((sinkShown_sending hp hd).trans he) hw).1

/-- What the transaction level sees of the clock that ends DECRPT: the events of the Sample, or none, and PHASE at
DLY_REST. -/
theorem transactionPart_reportClock (h : s.sinkBeat = 7 ∨ dropsSample s = true) :
    transactionPart (reportClock s) = goto .dlyRest (record (reportEvents s) (transactionPart s)) := by
  obtain ⟨dropped, e⟩ | ⟨sent, -, e⟩ | ⟨sent, notLast, -⟩ := reportClock_cases s
  · rw [e, reportEvents_dropped s dropped]
    simp [record, goto, transactionPart]
  · rw [e, reportEvents_sent s sent]
    rfl
  · obtain last | dropped := h
    · exact absurd last notLast
    · simp [sent] at dropped

/-- The clock that ends DECRPT is its one transaction-level step (10_state.md R23). -/
theorem clockEdge_report_ends (hp : s.phase = .decrpt) (hq : quietEdge inp = true)
    (h : s.sinkBeat = 7 ∨ dropsSample s = true) :
    exec .decrpt (transactionPart s) = .next (transactionPart (clockEdge f inp s)) := by
  have moved : sequencerClock f inp s = loadTimer f (reportClock s) := by
    have ends : (dropsSample s || decide (s.sinkBeat = 7)) = true := by simpa [or_comm] using h
    simp only [sequencerClock, hp, ends, if_true]
  have shown : transactionPart (clockEdge f inp s) = goto .dlyRest (record (reportEvents s) (transactionPart s)) :=
    calc transactionPart (clockEdge f inp s)
      _ = transactionPart (sequencerClock f inp s) := by rw [clockEdge_quiet f inp s hq]; rfl
      _ = transactionPart (reportClock s) := by rw [moved, transactionPart_loadTimer]
      _ = goto .dlyRest (record (reportEvents s) (transactionPart s)) := transactionPart_reportClock h
  rw [shown]
  rfl

/-- A Sample before its last clock: nothing is recorded, and the sink port shows the beat whose turn it is. -/
theorem clockEdges_report_shows (hp : s.phase = .decrpt) (hzero : s.sinkBeat = 0) (hd : dropsSample s = false)
    (hq : inps.all quietEdge = true) (hlen : inps.length < 8) :
    (clockEdges f inps s).phase = .decrpt ∧ (clockEdges f inps s).trace = s.trace ∧
      sinkShown (clockEdges f inps s) = (sampleEvents (decodeFrame s.frame))[inps.length]? ∧
      (portsOut (clockEdges f inps s)).sinkValid = true := by
  have sending := clockEdges_report_beats (f := f) hp hd hq (by simpa [hzero] using hlen)
  have beat : (s.sinkBeat + BitVec.ofNat 3 inps.length).toNat = inps.length := by bv_omega
  rw [sending]
  exact ⟨hp, rfl,
    Eq.trans (sinkShown_sending hp hd) (congrArg (fun k => (sampleEvents (decodeFrame s.frame))[k]?) beat),
    portsOut_sinkValid_sending hp hd⟩

/-- Seven clocks of a Sample leave its last beat to the eighth, which ends the step. -/
theorem clockEdges_report_ends (hp : s.phase = .decrpt) (hzero : s.sinkBeat = 0) (hd : dropsSample s = false)
    (hq : inps.all quietEdge = true) (hlen : inps.length = 8) :
    exec .decrpt (transactionPart s) = .next (transactionPart (clockEdges f inps s)) := by
  obtain rfl | ⟨before, last, rfl⟩ := List.eq_nil_or_concat' inps
  · simp at hlen
  · simp only [List.all_append, List.all_cons, List.all_nil, Bool.and_true, Bool.and_eq_true] at hq
    obtain ⟨hbefore, hlast⟩ := hq
    have seven : before.length = 7 := by simpa using hlen
    have beats := clockEdges_report_beats (f := f) hp hd hbefore (by simp [hzero, seven])
    have lastBeat : (clockEdges f before s).sinkBeat = 7 := by rw [beats, hzero, seven]; rfl
    have decrpt : (clockEdges f before s).phase = .decrpt := by rw [beats]; exact hp
    have unseen : transactionPart (clockEdges f before s) = transactionPart s := by rw [beats]; rfl
    rw [clockEdges_append, ← unseen]
    exact clockEdge_report_ends decrpt hlast (.inl lastBeat)

end

/-- Settles O59: a Sample sent is seven clocks that only move the beat index on and an eighth that performs the step; a
dropped one is that last clock alone. -/
theorem reportTakesEightClocks : Obligations.ReportTakesEightClocks := by
  intro f s inps hp hzero hq
  refine ⟨fun sent => ⟨clockEdges_report_shows hp hzero sent hq, clockEdges_report_ends hp hzero sent hq⟩,
    fun dropped => ⟨by simp [portsOut, sinkShown_silent (.inr dropped)], fun one => ?_⟩⟩
  obtain ⟨inp, rfl⟩ := List.length_eq_one_iff.1 one
  exact clockEdge_report_ends hp (by simpa using hq) (.inr dropped)

end Sys2Proof.Machine
